-- ==== Sys2Proof/Word.lean ====
section
/-! DEFINITION. The word types of the GMI frame receiver. Every value of the spec is unsigned (00_scope.md rule R9). -/

namespace Sys2Proof

/-- A byte: an unsigned 8-bit value, bit 7 the most significant (rule R9). -/
abbrev Byte := BitVec 8

/-- An unsigned 16-bit value: lengths, counters and capacities (rules R24, R30, R93). -/
abbrev Half := BitVec 16

/-- A sequence number, `SEQ_W = 32` bits (rules R6, R32; 92_eei_decisions.md D8; log entry 11). -/
abbrev SeqNum := BitVec 32

end Sys2Proof
end

