-- ==== Sys2Proof/Config.lean ====
section
/-! DEFINITION. What is fixed when the block is built (00_scope.md rules R6 to R8), and the values the spec leaves free. -/

namespace Sys2Proof

/-- The two byte memories (20_memory.md rule R60). -/
inductive Buffer where
  | ans
  | rxbuf
  deriving DecidableEq, Repr

/-- The configuration record of rule R6. `sof` to `maxLens` are the OPEN parameters (D2 to D6); the other four are decided
parameters a model may still take as arguments (D9, D14, D15; log
entry 11). `maxLens` lists the commands the MAXLEN table knows. -/
structure Config where
  sof          : Byte
  eof          : Byte
  cmdReceive   : Byte
  cmdInvalid   : Byte
  maxLens      : List (Byte × Half)
  rxbufCap     : Half
  ansMax       : Half
  sendSeqReset : SeqNum
  ansSeqReset  : SeqNum
  deriving DecidableEq, Repr

/-- `CMD_VERSION`, the one command code the source names by value (rules R6, R100). -/
def Config.cmdVersion : Byte := 0x3A

/-- `ACK_OK` (rules R6, R101). -/
def Config.ackOk : Byte := 0x00

/-- `ACK_FAIL` (rules R6, R101). -/
def Config.ackFail : Byte := 0x01

/-- `TIMEOUT_MS`, milliseconds: a figure of the reference implementation that no rule reads (rules R6, R259, R301). -/
def Config.timeoutMs : Nat := 1000

/-- The entry of a list of maximum lengths for the code `c`; 0 for a code the list does not know (rule R7 c). -/
def Config.lookupMaxLen : List (Byte × Half) → Byte → Half
  | [], _ => 0
  | (k, n) :: rest, c => if c = k then n else Config.lookupMaxLen rest c

/-- `MAXLEN(c)`: the largest payload a frame with command code `c` may declare (rules R6, R7, R147). -/
def Config.maxLen (cfg : Config) (c : Byte) : Half := Config.lookupMaxLen cfg.maxLens c

/-- The constraints of rule R7: (a) no maximum over 300; (b) 300 for `CMD_RECEIVE`; (d) at least 16 for `CMD_VERSION`;
(e) the two sequence reset values differ. (c) holds by `lookupMaxLen`, and (f), (g) constrain nothing (log entry 14). -/
def Config.wf (cfg : Config) : Bool :=
  cfg.maxLens.all (fun e => decide (e.2 ≤ 300)) && decide (cfg.maxLen cfg.cmdReceive = 300)
    && decide (16 ≤ cfg.maxLen Config.cmdVersion) && decide (cfg.sendSeqReset ≠ cfg.ansSeqReset)

/-- The test configuration `T` of rule R8: the spec's own instance of the OPEN parameters, no fact about the real module.
DESIGN CHOICE (log entry 1): `State.reset` carries it, since `exec` and `step` take no configuration argument. -/
def Config.T : Config where
  sof          := 0x02
  eof          := 0x03
  cmdReceive   := 0x80
  cmdInvalid   := 0xFF
  maxLens      := [(0x3A, 16), (0x80, 300), (0xFF, 0), (0x10, 1)]
  rxbufCap     := 300
  ansMax       := 300
  sendSeqReset := 1
  ansSeqReset  := 0

/-- The byte at index `i` of a memory that no step has written since the `epoch`-th reset: any value, fixed per location until
written (rule R44; 93_implementation_defined.md U6). A free value: it has no body (log entry 3). -/
opaque Config.unwrittenByte : (mem : Buffer) → (epoch : Nat) → (i : Nat) → Byte

/-- The transport's answer to the `n`-th `write` of an exchange that the environment's schedule says nothing about: any value, the
environment's choice (rule R216; 93_implementation_defined.md U5). A free value: it has no body (log entry 17). -/
opaque Config.writeResult : (n : Nat) → Bool

end Sys2Proof
end

