-- ==== Sys2Proof/Syntax.lean ====
section
/-! DEFINITION. The block's operations and frames as syntax: one constructor of `Instr` for each row of spec/opcode_table.json,
and the enumerations of 10_state.md. -/

namespace Sys2Proof

/-- `rx.state`: which field of a frame the receiver expects next (rule R22). -/
inductive RxState where
  | idle
  | awaitCmd
  | awaitLenLo
  | awaitLenHi
  | awaitData
  | awaitCsum
  | awaitTerm
  deriving DecidableEq, Repr

/-- `rx.type`: the frame type marked at classification (rules R24, R99). -/
inductive FrameType where
  | none
  | answer
  | receive
  | invalid
  deriving DecidableEq, Repr

/-- The error kinds of rule R240. -/
inductive ErrorKind where
  | unknownCommand
  | lengthOverflow
  | checksumMismatch
  | terminatorMismatch
  | staleAnswer
  | writeFailure
  | timeout
  deriving DecidableEq, Repr

/-- What may happen while an exchange waits (rules R109 a, R185, R217): a byte is fed, or the wait returns in one of its three
ways. Which of them happen, and in which order, is the environment's choice (rule R21). -/
inductive WaitMove where
  | feed (b : Byte)
  | wake
  | spurious
  | timeout
  deriving DecidableEq, Repr

/-- The environment's choices during one exchange: the bytes fed after `SW.ACQ` and after `SW.POP`, the result of `write`, and
the moves between `SW.TX` and `SW.EXIT` (rules R109 a, R185: feeder steps fall anywhere between the steps). -/
structure ExchangePlan where
  afterAcq : List Byte
  afterPop : List Byte
  ok       : Bool
  moves    : List WaitMove
  deriving DecidableEq, Repr

/-- The operations of the block, one constructor per row of spec/opcode_table.json, in the table's order. -/
inductive Instr where
  /-- FRAME.ANSWER: the peer sends a frame with code `c`, the awaited one, and payload `p` (rules R99, R142, R171). -/
  | frameAnswer (c : Byte) (p : List Byte)
  /-- FRAME.RECEIVE: the peer sends an unsolicited frame with payload `p` (rules R99, R142, R173). -/
  | frameReceive (p : List Byte)
  /-- FRAME.INVALID: the peer sends an "invalid command" frame with payload `p` (rules R99, R142, R172). -/
  | frameInvalid (p : List Byte)
  /-- FRAME.UNKNOWN: a start marker and the command byte `c` at which the frame is abandoned (rules R102, R241). -/
  | frameUnknown (c : Byte)
  /-- FRAME.COMMAND: the host's frame with code `c` and payload `p` goes to the peer (rules R90, R122). -/
  | frameCommand (c : Byte) (p : List Byte)
  /-- CMD.VERSION: the request frame of the version command goes to the peer (rule R100). -/
  | cmdVersion
  /-- FRAME.ACK: the peer sends an acknowledge-success frame for `c`; the block never sends one itself (rules R101, R123). -/
  | frameAck (c : Byte)
  /-- FRAME.NACK: the negative-acknowledge frame for `c` goes to the peer (rules R101, R123, R152). -/
  | frameNack (c : Byte)
  /-- FEED (rule R140). -/
  | feed (b : Byte)
  /-- RX.IDLE (rule R141). -/
  | rxIdle (b : Byte)
  /-- RX.CMD (rule R142). -/
  | rxCmd (b : Byte)
  /-- RX.LENLO (rule R145). -/
  | rxLenLo (b : Byte)
  /-- RX.LENHI (rule R146). -/
  | rxLenHi (b : Byte)
  /-- RX.DATA (rule R149). -/
  | rxData (b : Byte)
  /-- RX.CSUM (rule R151). -/
  | rxCsum (b : Byte)
  /-- RX.TERM (rule R153). -/
  | rxTerm (b : Byte)
  /-- DISPATCH (rule R170). -/
  | dispatch
  /-- DISP.ANSWER (rule R171). -/
  | dispAnswer
  /-- DISP.INVALID (rule R172). -/
  | dispInvalid
  /-- DISP.RECEIVE (rule R173). -/
  | dispReceive
  /-- SEND_AND_WAIT (rule R185). -/
  | sendAndWait (command : Byte) (payload : List Byte) (capacity : Half) (plan : ExchangePlan)
  /-- SEND_AND_WAIT_ACK (rule R195). -/
  | sendAndWaitAck (command : Byte) (payload : List Byte) (plan : ExchangePlan)
  /-- SW.ACQ (rule R186). -/
  | swAcq (command : Byte) (payload : List Byte) (capacity : Half) (ack : Bool)
  /-- SW.POP (rule R187). -/
  | swPop
  /-- SW.TX (rule R188); `ok` is the transport's result. -/
  | swTx (ok : Bool)
  /-- SW.WAKE (rule R189). -/
  | swWake
  /-- SW.SPURIOUS (rule R190). -/
  | swSpurious
  /-- SW.TIMEOUT (rule R191). -/
  | swTimeout
  /-- SW.EXIT (rule R193). -/
  | swExit
  /-- CSUM8 (rule R120). -/
  | csum8 (bytes : List Byte)
  /-- ENCODE (rule R122). -/
  | encode (c : Byte) (p : List Byte)
  /-- ENCODE_ACK (rule R123). -/
  | encodeAck (c : Byte) (success : Bool)
  /-- HOST.READ (rule R66). -/
  | hostRead (i : Nat)
  /-- RESET (rule R280). -/
  | reset
  /-- write, the event (rule R216); `ok` is the transport's result. -/
  | write (frame : List Byte) (ok : Bool)
  /-- raise_signal, the event (rule R218). -/
  | raiseSignal
  /-- on_receive, the event (rule R220). -/
  | onReceive (bytes : List Byte) (length : Half)
  /-- log, the event (rule R221). -/
  | log (kind : ErrorKind)
  deriving DecidableEq, Repr

end Sys2Proof
end

