-- ==== Sys2Proof/WellFormed.lean ====
section
/-! DEFINITION. Which operations are well formed for a configuration: the operand ranges the spec states. -/

namespace Sys2Proof

/-- Why an operation is ill formed. -/
inductive Malformed where
  /-- a payload the 16-bit length field cannot hold (rules R93, R122, R186) -/
  | payloadTooLong
  /-- a received frame longer than `MAXLEN` of its command (rules R105, R147) -/
  | overMaxLen
  /-- an answer capacity over `ANS_MAX` (rules R34, R186) -/
  | capacityOverMax
  /-- a host read outside `ANS` (rule R66) -/
  | indexOutsideAns
  /-- a written byte sequence that no frame has the size of (rule R97) -/
  | notAFrameSize
  /-- delivered bytes other than the first `min(length, RXBUF_CAP)` (rule R220) -/
  | deliveredCount
  /-- a kind the block does not log (rule R221) -/
  | kindNotLogged
  deriving DecidableEq, Repr

/-- The kinds the block logs are the five receiver-side ones (rules R221, R240). -/
def ErrorKind.isLogged : ErrorKind → Bool
  | .unknownCommand | .lengthOverflow | .checksumMismatch | .terminatorMismatch | .staleAnswer => true
  | .writeFailure | .timeout => false

/-- The check of a payload the encoder must hold in 16 bits. -/
def Malformed.ofPayload (p : List Byte) : Option Malformed :=
  if p.length ≤ 65535 then none else some .payloadTooLong

/-- The check of a received frame's payload against `MAXLEN(c)`. -/
def Malformed.ofReceived (cfg : Config) (c : Byte) (p : List Byte) : Option Malformed :=
  if p.length ≤ (cfg.maxLen c).toNat then none else some .overMaxLen

/-- What is wrong with an operation's operands, if anything. -/
def Instr.malformed (cfg : Config) : Instr → Option Malformed
  | .frameAnswer c p => Malformed.ofReceived cfg c p
  | .frameReceive p => Malformed.ofReceived cfg cfg.cmdReceive p
  | .frameInvalid p => Malformed.ofReceived cfg cfg.cmdInvalid p
  | .frameUnknown _ => none
  | .frameCommand _ p => Malformed.ofPayload p
  | .cmdVersion => none
  | .frameAck _ => none
  | .frameNack _ => none
  | .feed _ => none
  | .rxIdle _ => none
  | .rxCmd _ => none
  | .rxLenLo _ => none
  | .rxLenHi _ => none
  | .rxData _ => none
  | .rxCsum _ => none
  | .rxTerm _ => none
  | .dispatch => none
  | .dispAnswer => none
  | .dispInvalid => none
  | .dispReceive => none
  | .sendAndWait _ p cap _ => if cap ≤ cfg.ansMax then Malformed.ofPayload p else some .capacityOverMax
  | .sendAndWaitAck _ p _ => if 1 ≤ cfg.ansMax then Malformed.ofPayload p else some .capacityOverMax
  | .swAcq _ p cap _ => if cap ≤ cfg.ansMax then Malformed.ofPayload p else some .capacityOverMax
  | .swPop => none
  | .swTx _ => none
  | .swWake => none
  | .swSpurious => none
  | .swTimeout => none
  | .swExit => none
  | .csum8 _ => none
  | .encode _ p => Malformed.ofPayload p
  | .encodeAck _ _ => none
  | .hostRead i => if i < cfg.ansMax.toNat then none else some .indexOutsideAns
  | .reset => none
  | .write frame _ => if 6 ≤ frame.length ∧ frame.length ≤ 65541 then none else some .notAFrameSize
  | .raiseSignal => none
  | .onReceive bytes n => if bytes.length = min n.toNat cfg.rxbufCap.toNat then none else some .deliveredCount
  | .log kind => if kind.isLogged then none else some .kindNotLogged

/-- An operation is well formed when nothing is wrong with its operands. -/
def Instr.wellFormed (cfg : Config) (i : Instr) : Bool := (i.malformed cfg).isNone

end Sys2Proof
end

