-- ==== Sys2Proof/Decode.lean ====
section
/-! DEFINITION. The wire format: byte helpers, the checksum, the frame codec (30_encoding.md, 40_codec.md), the decoder of the
receive stream (rules R75, R99, R107, R140), and the encoder written from the same tables. Operations that are not on the wire
have no encoding (rule R107). -/

namespace Sys2Proof

/-- `v[7:0]` of a 16-bit value (rule R9). -/
def lowByte (v : Half) : Byte := v.extractLsb' 0 8

/-- `v[15:8]` of a 16-bit value (rule R9). -/
def highByte (v : Half) : Byte := v.extractLsb' 8 8

/-- `{hi, lo}`: the 16-bit value `hi * 256 + lo` (rules R9, R63, R93). -/
def joinBytes (hi lo : Byte) : Half := hi ++ lo

/-- `v` with bits 7 to 0 replaced (rule R145). -/
def setLowByte (v : Half) (b : Byte) : Half := joinBytes (highByte v) b

/-- `v` with bits 15 to 8 replaced (rule R146). -/
def setHighByte (v : Half) (b : Byte) : Half := joinBytes b (lowByte v)

/-- `CSUM8(s)`: the 8-bit truncating sum (rules R95, R120, R121). -/
def csum8 : List Byte → Byte
  | [] => 0
  | b :: bs => b + csum8 bs

/-- The four header bytes of a frame with code `c` and `n` payload bytes, low length byte first (rules R90, R93). -/
def frameHeader (cfg : Config) (c : Byte) (n : Nat) : List Byte :=
  [cfg.sof, c, lowByte (BitVec.ofNat 16 n), highByte (BitVec.ofNat 16 n)]

/-- Header and payload: what the checksum covers (rule R95). -/
def frameBody (cfg : Config) (c : Byte) (p : List Byte) : List Byte := frameHeader cfg c p.length ++ p

/-- `ENCODE(c, p)` (rule R122). -/
def encodeFrame (cfg : Config) (c : Byte) (p : List Byte) : List Byte :=
  frameBody cfg c p ++ [csum8 (frameBody cfg c p), cfg.eof]

/-- The acknowledge payload byte (rule R101). -/
def ackByte (success : Bool) : Byte := if success then Config.ackOk else Config.ackFail

/-- `ENCODE_ACK(c, success)` (rule R123). -/
def encodeAckFrame (cfg : Config) (c : Byte) (success : Bool) : List Byte := encodeFrame cfg c [ackByte success]

/-- The classification of a command byte: the pending command first, then `CMD_RECEIVE`, then `CMD_INVALID` (rules R99, R144). -/
def classify (cfg : Config) (awaited : Option Byte) (c : Byte) : FrameType :=
  if awaited = some c then .answer
  else if c = cfg.cmdReceive then .receive
  else if c = cfg.cmdInvalid then .invalid
  else .none

/-- Why a byte sequence is not a frame. -/
inductive FrameError where
  /-- there is no byte -/
  | empty
  /-- byte 0 is not `SOF` (rule R103) -/
  | noStartMarker
  /-- the bytes end before the frame does (rule R98) -/
  | truncated
  /-- the declared length exceeds the bound for its command (rule R105) -/
  | lengthOverflow
  /-- the checksum byte is wrong (rule R106) -/
  | checksumMismatch
  /-- the terminator byte is wrong (rule R106) -/
  | terminatorMismatch
  deriving DecidableEq, Repr

/-- Reads what follows the command byte `c`: length, payload, checksum, terminator. The frame's end is found from the length
field alone (rule R98). Answers the payload and the bytes after the frame. -/
def parseAfterCommand (cfg : Config) (bound : Half) (c : Byte) : List Byte → Except FrameError (List Byte × List Byte)
  | lo :: hi :: body =>
    if bound < joinBytes hi lo then .error .lengthOverflow
    else
      match body.drop (joinBytes hi lo).toNat with
      | s :: e :: rest =>
        if s = csum8 ([cfg.sof, c, lo, hi] ++ body.take (joinBytes hi lo).toNat) then
          if e = cfg.eof then .ok (body.take (joinBytes hi lo).toNat, rest) else .error .terminatorMismatch
        else .error .checksumMismatch
      | _ => .error .truncated
  | _ => .error .truncated

/-- What the decoder reads of the block: its configuration, `rx.state`, and the awaited command, if one is pending. -/
structure View where
  cfg     : Config
  rxState : RxState
  awaited : Option Byte
  deriving DecidableEq, Repr

/-- Gives a parsed payload its constructor. -/
def wrapParsed (mk : List Byte → Instr) : Except FrameError (List Byte × List Byte) → Except FrameError (Instr × List Byte)
  | .ok (p, rest) => .ok (mk p, rest)
  | .error e => .error e

/-- Reads one whole frame of the receive stream, by the map of rule R99; rejects by name. An unknown command ends its frame at
the command byte (rule R102). -/
def decodeFrame (v : View) : List Byte → Except FrameError (Instr × List Byte)
  | [] => .error .empty
  | b :: bs =>
    if b = v.cfg.sof then
      match bs with
      | [] => .error .truncated
      | c :: body =>
        match classify v.cfg v.awaited c with
        | .answer => wrapParsed (Instr.frameAnswer c) (parseAfterCommand v.cfg (v.cfg.maxLen c) c body)
        | .receive => wrapParsed Instr.frameReceive (parseAfterCommand v.cfg (v.cfg.maxLen c) c body)
        | .invalid => wrapParsed Instr.frameInvalid (parseAfterCommand v.cfg (v.cfg.maxLen c) c body)
        | .none => .ok (.frameUnknown c, body)
    else .error .noStartMarker

/-- The arm of `FEED` that `rx.state` selects for the byte `b` (rules R107, R140). -/
def selectArm (st : RxState) (b : Byte) : Instr :=
  match st with
  | .idle => .rxIdle b
  | .awaitCmd => .rxCmd b
  | .awaitLenLo => .rxLenLo b
  | .awaitLenHi => .rxLenHi b
  | .awaitData => .rxData b
  | .awaitCsum => .rxCsum b
  | .awaitTerm => .rxTerm b

/-- One byte of the receive stream: the arm that `rx.state` selects (rule R140). -/
def decodeByte (v : View) : List Byte → Except FrameError (Instr × List Byte)
  | [] => .error .empty
  | b :: bs => .ok (selectArm v.rxState b, bs)

/-- The decoder of the receive stream, which plays the part of the instruction stream (rule R75): a whole frame where one stands
and the receiver is in `IDLE`, else one byte. The block never refuses a byte (rule R140), so only an empty stream is rejected. -/
def decode (v : View) (bs : List Byte) : Except FrameError (Instr × List Byte) :=
  match v.rxState with
  | .idle =>
    match decodeFrame v bs with
    | .ok r => .ok r
    | .error _ => decodeByte v bs
  | .awaitCmd => decodeByte v bs
  | .awaitLenLo => decodeByte v bs
  | .awaitLenHi => decodeByte v bs
  | .awaitData => decodeByte v bs
  | .awaitCsum => decodeByte v bs
  | .awaitTerm => decodeByte v bs

/-- The row of the table a frame sent to the peer is, by its code and payload (rules R100, R101, R123). DEDUCED (log entry 15):
the two acknowledge rows come first, since their match is on the length and the payload alone. -/
def sentRow (c : Byte) (p : List Byte) : Instr :=
  if p = [Config.ackOk] then .frameAck c
  else if p = [Config.ackFail] then .frameNack c
  else if c = Config.cmdVersion ∧ p = [] then .cmdVersion
  else .frameCommand c p

/-- Reads one frame of the transmit stream, as the peer does; every length the field can hold is read (rules R90, R97, R122). -/
def decodeSent (cfg : Config) : List Byte → Except FrameError (Instr × List Byte)
  | [] => .error .empty
  | b :: bs =>
    if b = cfg.sof then
      match bs with
      | [] => .error .truncated
      | c :: body => wrapParsed (sentRow c) (parseAfterCommand cfg 65535 c body)
    else .error .noStartMarker

/-- The bytes of an operation that is on the wire; `none` for one that is not (rule R107). A receiver arm is one byte of a frame,
its meaning selected by `rx.state`. -/
def encode (cfg : Config) : Instr → Option (List Byte)
  | .frameAnswer c p => some (encodeFrame cfg c p)
  | .frameReceive p => some (encodeFrame cfg cfg.cmdReceive p)
  | .frameInvalid p => some (encodeFrame cfg cfg.cmdInvalid p)
  | .frameUnknown c => some [cfg.sof, c]
  | .frameCommand c p => some (encodeFrame cfg c p)
  | .cmdVersion => some (encodeFrame cfg Config.cmdVersion [])
  | .frameAck c => some (encodeAckFrame cfg c true)
  | .frameNack c => some (encodeAckFrame cfg c false)
  | .feed b => some [b]
  | .rxIdle b => some [b]
  | .rxCmd b => some [b]
  | .rxLenLo b => some [b]
  | .rxLenHi b => some [b]
  | .rxData b => some [b]
  | .rxCsum b => some [b]
  | .rxTerm b => some [b]
  | .dispatch => none
  | .dispAnswer => none
  | .dispInvalid => none
  | .dispReceive => none
  | .sendAndWait _ _ _ _ => none
  | .sendAndWaitAck _ _ _ => none
  | .swAcq _ _ _ _ => none
  | .swPop => none
  | .swTx _ => none
  | .swWake => none
  | .swSpurious => none
  | .swTimeout => none
  | .swExit => none
  | .csum8 _ => none
  | .encode _ _ => none
  | .encodeAck _ _ => none
  | .hostRead _ => none
  | .reset => none
  | .write _ _ => none
  | .raiseSignal => none
  | .onReceive _ _ => none
  | .log _ => none

/-- The longest frame the receiver accepts, in bytes (rules R97, R301). -/
def longestAccepted : Nat := 306

/-- The bytes of a table word of `nbits` bits: the first byte in bits 7 to 0, the next in bits 15 to 8, and so on, then zeros up
to the longest frame the receiver accepts (log entry 12). -/
def tableBytes (nbits w : Nat) : List Byte :=
  (List.range ((nbits + 7) / 8)).map (fun k => BitVec.ofNat 8 (w >>> (8 * k)))
    ++ List.replicate (longestAccepted - (nbits + 7) / 8) 0

/-- What the decoder sees right after reset: configuration `T`, `IDLE`, nothing pending (rules R8, R44). -/
def resetView : View := { cfg := Config.T, rxState := .idle, awaited := none }

/-- The operation the decoder reads, right after reset, from the bytes of a table word. -/
def decodeTableWord (nbits w : Nat) : Option Instr :=
  if nbits = 0 then none
  else
    match decode resetView (tableBytes nbits w) with
    | .ok (i, _) => some i
    | .error _ => none

end Sys2Proof
end

