-- ==== Sys2Proof/Machine/State.lean ====
section
/-! DEFINITION. The state of the block (10_state.md), what it emits (rule R11), what its environment has scheduled (rule R21), the
reasons a step stops, and reset (rules R44, R280). -/

namespace Sys2Proof.Machine

/-- `rx.target`: which buffer payload bytes go to (rule R24). -/
inductive Target where
  | none
  | ans
  | rxbuf
  deriving DecidableEq, Repr

/-- `co.stage`: which step of an exchange comes next (rule R23): `C_IDLE`, `C_LOCKED`, `C_POPULATED`, `C_WAIT`, `C_EXIT`. -/
inductive Stage where
  | idle
  | locked
  | populated
  | wait
  | exit
  deriving DecidableEq, Repr

/-- `OK` or `FAIL` (rule R38). -/
inductive Status where
  | ok
  | fail
  deriving DecidableEq, Repr

/-- `rx.state` and the Receive Context (rules R22, R24). -/
structure Rx where
  state    : RxState
  command  : Byte
  type     : FrameType
  target   : Target
  capacity : Half
  length   : Half
  counter  : Half
  csum     : Byte
  deriving DecidableEq, Repr

/-- The Pending Command (rule R30). -/
structure Pend where
  active         : Bool
  command        : Byte
  sendSequence   : SeqNum
  answerSequence : SeqNum
  answerCapacity : Half
  answerLength   : Half
  deriving DecidableEq, Repr

/-- The correlator sequencer's registers (rules R23, R38). -/
structure Co where
  stage  : Stage
  result : Status
  deriving DecidableEq, Repr

/-- The request latches `rq.*` (rule R37). -/
structure Request where
  command  : Byte
  payload  : List Byte
  capacity : Half
  ack      : Bool
  deriving DecidableEq, Repr

/-- A byte memory: the bytes written since the last reset, as (index, byte) pairs with indices strictly rising. An unlisted index
has not been written; it has no value of its own and reads as a free value (rules R43, R44, R60; log entry 3). -/
abbrev Memory := List Host.Cell

/-- An output event (rule R11), and the two kinds of value the block hands back (log entry 9). -/
inductive Output where
  /-- `write(frame)` (rule R216). -/
  | write (frame : List Byte)
  /-- `on_receive(bytes, length)` (rule R220). -/
  | onReceive (bytes : List Byte) (length : Half)
  /-- `raise_signal()` (rule R218). -/
  | raiseSignal
  /-- `log(kind)` (rule R221). -/
  | log (kind : ErrorKind)
  /-- The return of a finished exchange (rule R194). -/
  | ret (status : Status) (length : Half)
  /-- The byte `HOST.READ(i)` returned (rules R11, R66). -/
  | hostRead (i : Nat) (b : Byte)
  /-- The bytes a pure function returned (rules R120, R122, R123). -/
  | value (bytes : List Byte)
  deriving DecidableEq, Repr

/-- What the environment has scheduled (rules R21, R71): bytes that arrive with no other agent's step between them, or one
operation an agent wants to take. -/
inductive Input where
  | bytes (bs : List Byte)
  | op (i : Instr)
  deriving DecidableEq, Repr

/-- The state. `cfg` to `rxbuf` are what the spec gives the block (rule R20; `cfg` is rule R6's record, which no step writes: log
entry 1). `outputs` is the output trace of rules R10 and R11, oldest first. `schedule` is the environment's order of steps (rules
R21, R71; log entry 2). Two counters are the model's own: `epoch` counts resets and selects the free values of unwritten memory (log
entry 3); `choices` counts the results of `write` that the schedule left open and selects their free values (log entry 17). -/
structure State where
  cfg      : Config
  rx       : Rx
  pend     : Pend
  co       : Co
  rq       : Request
  lock     : Bool
  sig      : Bool
  ans      : Memory
  rxbuf    : Memory
  outputs  : List Output
  schedule : List Input
  epoch    : Nat
  choices  : Nat
  deriving DecidableEq, Repr

/-- Faults: an access to a byte that does not exist. Safe: the machine stops (log entry 10). -/
inductive Fault where
  /-- Raised by HOST.READ for an index that is no index of `ANS` (rules R43, R66). Safe. -/
  | noSuchAnswerByte (i : Nat)
  deriving DecidableEq, Repr

/-- Refusals: an operation asked for where the spec has no such step (93_implementation_defined.md, treatment `refuse`). All are
safe (log entry 10). `step` never answers one: it only takes enabled operations. -/
inductive Refusal where
  /-- Raised by an arm of `exec` for an operation that has no meaning yet. Safe. -/
  | notModelled (mnemonic : String)
  /-- Raised by an RX arm that `rx.state` does not select (rule R140). Safe. -/
  | armNotSelected
  /-- Raised by DISPATCH and DISP.* when `rx.state` is not `AWAIT_TERM` (rule R170). Safe. -/
  | notAtTerminator
  /-- Raised by DISPATCH and DISP.* when `rx.type` selects no arm, or another one (rule R170). Safe. -/
  | handlerNotSelected
  /-- Raised by SW.ACQ and the two pseudo-operations while an exchange is in progress: the caller waits (rules R186, R197). Safe. -/
  | lockHeld
  /-- Raised by SW.ACQ and the two pseudo-operations for a payload over 65535 bytes or a capacity over `ANS_MAX` (rule R186). Safe. -/
  | requestOutOfRange
  /-- Raised by SW.POP to SW.EXIT in another stage than their own (rule R196). Safe. -/
  | stageNotReached
  /-- Raised by SW.WAKE while `sig = 0` (rule R189). Safe. -/
  | noSignal
  /-- Raised by SW.TIMEOUT while `sig = 1` (rule R191). Safe. -/
  | signalLatched
  /-- Raised by ENCODE and the FRAME rows for a payload outside the encoder's domain (rule R122). Safe. -/
  | payloadTooLong
  /-- Raised by the log event for a kind the block does not log (rule R221). Safe. -/
  | kindNotLogged
  deriving DecidableEq, Repr

/-- The Receive Context at reset (rule R44). -/
def Rx.reset : Rx :=
  { state := .idle, command := 0, type := .none, target := .none, capacity := 0, length := 0, counter := 0, csum := 0 }

/-- The Pending Command at reset (rule R44). -/
def Pend.reset (cfg : Config) : Pend :=
  { active := false, command := 0, sendSequence := cfg.sendSeqReset, answerSequence := cfg.ansSeqReset,
    answerCapacity := 0, answerLength := 0 }

/-- The correlator's registers at reset (rule R44). -/
def Co.reset : Co := { stage := .idle, result := .fail }

/-- The request latches at reset. The spec leaves them unspecified and no rule reads them before `SW.ACQ` writes them (rule R44,
U3): DESIGN CHOICE zero (log entry 4). -/
def Request.reset : Request := { command := 0, payload := [], capacity := 0, ack := false }

/-- The state right after power-on of a block built with configuration `cfg` (rule R44): nothing written, nothing emitted, nothing
scheduled. -/
def State.powerOn (cfg : Config) : State :=
  { cfg := cfg, rx := Rx.reset, pend := Pend.reset cfg, co := Co.reset, rq := Request.reset, lock := false, sig := false,
    ans := [], rxbuf := [], outputs := [], schedule := [], epoch := 0, choices := 0 }

/-- The machine right after reset. Its OPEN parameters are those of the spec's test configuration `T` (log entry 1). -/
def State.reset : State := State.powerOn Config.T

end Sys2Proof.Machine
end

