-- ==== Sys2Proof/Machine/Ops.lean ====
section
/-! DEFINITION. The shared operations: memory access, output events, and the errors of 60_exceptions.md, which are the block's
exceptions. -/

namespace Sys2Proof.Machine

/-- The byte written at index `i` since the last reset, if one was. -/
def Memory.find? : Memory → Nat → Option Byte
  | [], _ => none
  | (k, b) :: rest, i => if i = k then some b else Memory.find? rest i

/-- Stores the byte `b` at index `i`, keeping indices strictly rising. -/
def Memory.write : Memory → Nat → Byte → Memory
  | [], i, b => [(i, b)]
  | (k, w) :: rest, i, b =>
    if i < k then (i, b) :: (k, w) :: rest
    else if i = k then (i, b) :: rest
    else (k, w) :: Memory.write rest i b

/-- The canonical form: indices strictly rising. No entry can equal what an unlisted index reads as, since that is no value. -/
def Memory.wf : Memory → Bool
  | [] => true
  | [_] => true
  | a :: b :: rest => decide (a.1 < b.1) && Memory.wf (b :: rest)

/-- Every listed index is an index of a memory of `n` bytes (rule R43). -/
def Memory.within (n : Nat) (m : Memory) : Bool := m.all (fun c => decide (c.1 < n))

/-- `MemRead(ANS[i], 1)` (rules R10, R62, R66); a byte not written since reset reads as a free value. -/
def State.readAns (s : State) (i : Nat) : Byte := (Memory.find? s.ans i).getD (Config.unwrittenByte .ans s.epoch i)

/-- `MemRead(RXBUF[i], 1)` (rules R10, R62, R68). -/
def State.readRxbuf (s : State) (i : Nat) : Byte :=
  (Memory.find? s.rxbuf i).getD (Config.unwrittenByte .rxbuf s.epoch i)

/-- `MemWrite(ANS[i], 1, b)` (rules R10, R62). A byte the memory does not have is not stored; no reachable state asks for one
(rule R61; log entry 5). -/
def State.storeAns (s : State) (i : Nat) (b : Byte) : State :=
  if i < s.cfg.ansMax.toNat then { s with ans := Memory.write s.ans i b } else s

/-- `MemWrite(RXBUF[i], 1, b)` (rules R10, R62; log entry 5). -/
def State.storeRxbuf (s : State) (i : Nat) (b : Byte) : State :=
  if i < s.cfg.rxbufCap.toNat then { s with rxbuf := Memory.write s.rxbuf i b } else s

/-- `emit X(args)`: appends an output event to the trace (rules R10, R11). -/
def State.emit (s : State) (o : Output) : State := { s with outputs := s.outputs ++ [o] }

/-- The event `write(frame)` (rules R76, R216). -/
def State.writeFrame (s : State) (frame : List Byte) : State := s.emit (.write frame)

/-- The event `raise_signal()`: `sig <- 1` (rules R40, R218). -/
def State.raiseSignal (s : State) : State := { s with sig := true }.emit .raiseSignal

/-- The event `on_receive(bytes, length)` (rule R220). -/
def State.deliver (s : State) (bytes : List Byte) (length : Half) : State := s.emit (.onReceive bytes length)

/-- The event `log(kind)` (rule R221). -/
def State.logKind (s : State) (k : ErrorKind) : State := s.emit (.log k)

/-- The return from a receiver-side error, which is part of the step that raises it (rule R256): back to `IDLE`. -/
def State.returnToIdle (s : State) : State := { s with rx := { s.rx with state := .idle } }

/-- What a correlator-side error does (rules R246, R247, R254): the result is `FAIL`, the stage `C_EXIT`. -/
def State.failExchange (s : State) : State := { s with co := { stage := .exit, result := .fail } }

/-- The negative acknowledge of a frame whose checksum is wrong; its result is not looked at (rules R152, R257). -/
def State.writeNack (s : State) : State := s.writeFrame (encodeAckFrame s.cfg s.rx.command false)

/-- `raise <Error>`: what each error kind does, entry and return in one step; nothing is saved, no mode changes and there is no
vector (rules R240 to R247, R254, R256). `StaleAnswer` leaves the return to `IDLE` to the enclosing `RX.TERM` (rule R245). -/
def State.raise (s : State) (k : ErrorKind) : State :=
  match k with
  | .unknownCommand => (s.logKind .unknownCommand).returnToIdle
  | .lengthOverflow => (s.logKind .lengthOverflow).returnToIdle
  | .checksumMismatch => (s.logKind .checksumMismatch).writeNack.returnToIdle
  | .terminatorMismatch => (s.logKind .terminatorMismatch).returnToIdle
  | .staleAnswer => s.logKind .staleAnswer
  | .writeFailure => s.failExchange
  | .timeout => s.failExchange

/-- The label of an error kind (rule R240). -/
def errorCode : ErrorKind → Nat
  | .unknownCommand => 1
  | .lengthOverflow => 2
  | .checksumMismatch => 3
  | .terminatorMismatch => 4
  | .staleAnswer => 5
  | .writeFailure => 6
  | .timeout => 7

/-- Whether a kind is surfaced to the caller of a synchronous command (rules R240, R248). -/
def surfacedToCaller : ErrorKind → Bool
  | .unknownCommand | .lengthOverflow | .checksumMismatch | .terminatorMismatch | .staleAnswer => false
  | .writeFailure | .timeout => true

/-- The transmit stream: the frames given to `write`, in order (rules R60, R76). -/
def State.transmitted (s : State) : List (List Byte) :=
  s.outputs.filterMap fun o =>
    match o with
    | .write frame => some frame
    | _ => none

/-- Answers a next state if the condition holds, else the refusal. -/
def nextIf (enabled : Bool) (r : Refusal) (t : State) : Host.Outcome State Fault Refusal :=
  if enabled then .next t else .refused r

end Sys2Proof.Machine
end

