-- ==== Sys2Proof/Machine/Operands.lean ====
section
/-! DEFINITION. The operands the rules read: what the receiver sees of the Pending Command, the range of a request, the target of
a frame type, the part of a payload that is delivered. -/

namespace Sys2Proof.Machine

/-- The command code awaited, if one is: `pend.command` while `pend.active = 1` (rule R31). -/
def State.awaited (s : State) : Option Byte := if s.pend.active then some s.pend.command else none

/-- What the decoder reads of a state (rules R75, R107). -/
def State.view (s : State) : View := { cfg := s.cfg, rxState := s.rx.state, awaited := s.awaited }

/-- The type `RX.CMD` gives a frame with command byte `c` (rules R142, R144). -/
def State.classified (s : State) (c : Byte) : FrameType := classify s.cfg s.awaited c

/-- The target of a frame type (rule R25). -/
def targetOf : FrameType → Target
  | .none => .none
  | .answer => .ans
  | .receive => .rxbuf
  | .invalid => .none

/-- The capacity a frame of a type gets at classification (rules R29, R142). -/
def State.capacityOf (s : State) : FrameType → Half
  | .none => 0
  | .answer => s.pend.answerCapacity
  | .receive => s.cfg.rxbufCap
  | .invalid => 0

/-- The arguments of an exchange are in range: at most 65535 payload bytes, a capacity of at most `ANS_MAX` (rules R37, R186). -/
def State.inRange (s : State) (r : Request) : Bool := decide (r.payload.length ≤ 65535) && decide (r.capacity ≤ s.cfg.ansMax)

/-- `min(rx.length, rx.capacity)` (rules R68, R126 e, R173). -/
def State.deliveredCount (s : State) : Nat := min s.rx.length.toNat s.rx.capacity.toNat

/-- `RXBUF[0 .. n-1]`, by value (rules R68, R173). -/
def State.rxbufBytes (s : State) (n : Nat) : List Byte := (List.range n).map s.readRxbuf

/-- A payload the encoder can take (rule R122). -/
def encodable (p : List Byte) : Bool := decide (p.length ≤ 65535)

/-- The bytes of a start marker and a command byte (rule R102). -/
def markerAndCommand (cfg : Config) (c : Byte) : List Byte := [cfg.sof, c]

end Sys2Proof.Machine
end

