-- ==== Sys2Proof/Machine/Flags.lean ====
section
/-! DEFINITION. The conditions the rules test: the block's flags and comparisons (rules R39 to R41, R126 d). -/

namespace Sys2Proof.Machine

/-- `pend.answer_sequence = pend.send_sequence` (rules R171, R189). -/
def State.sequencesAgree (s : State) : Bool := decide (s.pend.answerSequence = s.pend.sendSequence)

/-- SW.ACQ is enabled but for its arguments: no exchange, lock free (rules R186, R196). -/
def State.lockFree (s : State) : Bool := decide (s.co.stage = .idle) && !s.lock

/-- SW.WAKE is enabled (rule R189). -/
def State.canWake (s : State) : Bool := decide (s.co.stage = .wait) && s.sig

/-- SW.SPURIOUS is enabled (rule R190). -/
def State.canSpurious (s : State) : Bool := decide (s.co.stage = .wait)

/-- SW.TIMEOUT is enabled (rule R191). -/
def State.canTimeout (s : State) : Bool := decide (s.co.stage = .wait) && !s.sig

/-- DISPATCH stands where it may run, at the terminator of a frame (rule R170). -/
def State.atTerminator (s : State) : Bool := decide (s.rx.state = .awaitTerm)

/-- The status an exchange returns: its result, lowered to `FAIL` for an acknowledge exchange that ended `OK` with
`ANS[0] != ACK_OK` (rules R193, R195). -/
def State.exitStatus (s : State) : Status :=
  if s.rq.ack = true ∧ s.co.result = .ok ∧ s.readAns 0 ≠ Config.ackOk then .fail else s.co.result

end Sys2Proof.Machine
end

