-- ==== Sys2Proof/Machine/Codec.lean ====
section
/-! DEFINITION. The codec's pure functions as operations (40_codec.md): they read no state but the configuration, change nothing,
and hand their result back (log entry 9). -/

namespace Sys2Proof.Machine

/-- CSUM8 (rule R120). -/
def execCsum8 (bytes : List Byte) (s : State) : Host.Outcome State Fault Refusal := .next (s.emit (.value [Sys2Proof.csum8 bytes]))

/-- ENCODE (rule R122). -/
def execEncode (c : Byte) (p : List Byte) (s : State) : Host.Outcome State Fault Refusal :=
  nextIf (encodable p) .payloadTooLong (s.emit (.value (encodeFrame s.cfg c p)))

/-- ENCODE_ACK (rule R123). -/
def execEncodeAck (c : Byte) (success : Bool) (s : State) : Host.Outcome State Fault Refusal :=
  .next (s.emit (.value (encodeAckFrame s.cfg c success)))

end Sys2Proof.Machine
end

