-- ==== Sys2Proof/Machine/Router.lean ====
section
/-! DEFINITION. The dispatch router (42_router.md): DISPATCH, DISP.ANSWER, DISP.INVALID, DISP.RECEIVE. -/

namespace Sys2Proof.Machine

/-- The effect of DISP.ANSWER (rule R171). -/
def answerFrame (s : State) : State :=
  if s.sequencesAgree then { s with pend := { s.pend with answerLength := s.rx.length } }.raiseSignal
  else s.raise .staleAnswer

/-- The effect of DISP.INVALID (rule R172). -/
def invalidFrame (s : State) : State :=
  { s with pend :=
    { s.pend with
      answerSequence := if s.pend.active then s.pend.sendSequence else s.pend.answerSequence
      answerLength := 0 } }.raiseSignal

/-- The effect of DISP.RECEIVE (rule R173). -/
def receiveFrame (s : State) : State := s.deliver (s.rxbufBytes s.deliveredCount) s.rx.length

/-- DISPATCH(): the arm that `rx.type` selects (rule R170); `T_NONE` cannot occur here and selects none. -/
def dispatchFrame (s : State) : State :=
  match s.rx.type with
  | .answer => answerFrame s
  | .invalid => invalidFrame s
  | .receive => receiveFrame s
  | .none => s

/-- DISPATCH (rule R170), a substep of RX.TERM. -/
def execDispatch (s : State) : Host.Outcome State Fault Refusal :=
  if s.atTerminator then nextIf (decide (s.rx.type ≠ .none)) .handlerNotSelected (dispatchFrame s)
  else .refused .notAtTerminator

/-- DISP.ANSWER (rule R171). -/
def execDispAnswer (s : State) : Host.Outcome State Fault Refusal :=
  if s.atTerminator then nextIf (decide (s.rx.type = .answer)) .handlerNotSelected (answerFrame s)
  else .refused .notAtTerminator

/-- DISP.INVALID (rule R172). -/
def execDispInvalid (s : State) : Host.Outcome State Fault Refusal :=
  if s.atTerminator then nextIf (decide (s.rx.type = .invalid)) .handlerNotSelected (invalidFrame s)
  else .refused .notAtTerminator

/-- DISP.RECEIVE (rule R173). -/
def execDispReceive (s : State) : Host.Outcome State Fault Refusal :=
  if s.atTerminator then nextIf (decide (s.rx.type = .receive)) .handlerNotSelected (receiveFrame s)
  else .refused .notAtTerminator

end Sys2Proof.Machine
end

