-- ==== Sys2Proof/Machine/Receiver.lean ====
section
/-! DEFINITION. The receiver state machine and checksum validator (41_receiver.md): FEED and its seven arms. Each arm is a total
function of the byte and the state (rule R157). -/

namespace Sys2Proof.Machine

/-- The byte `b` folded into the running checksum (rules R28, R124). -/
def foldByte (s : State) (b : Byte) : State := { s with rx := { s.rx with csum := s.rx.csum + b } }

/-- The effect of RX.IDLE (rule R141): only `SOF` starts a frame, which reinitialises the Receive Context (rule R26). -/
def rxIdle (b : Byte) (s : State) : State :=
  if b = s.cfg.sof then { s with rx := { Rx.reset with state := .awaitCmd, csum := s.cfg.sof } } else s

/-- The frame type is marked and the target and capacity are copied (rules R25, R29, R142). -/
def markFrame (s : State) (t : FrameType) : State :=
  { s with rx := { s.rx with type := t, target := targetOf t, capacity := s.capacityOf t, state := .awaitLenLo } }

/-- The recognition of an answer records the current send sequence (rules R33, R143). -/
def recordSequence (s : State) : State := { s with pend := { s.pend with answerSequence := s.pend.sendSequence } }

/-- The effect of RX.CMD (rules R142, R144). -/
def rxCmd (b : Byte) (s : State) : State :=
  let s' := { s with rx := { s.rx with command := b, csum := s.rx.csum + b } }
  match s.classified b with
  | .answer => recordSequence (markFrame s' .answer)
  | .receive => markFrame s' .receive
  | .invalid => markFrame s' .invalid
  | .none => s'.raise .unknownCommand

/-- The effect of RX.LENLO (rule R145). -/
def rxLenLo (b : Byte) (s : State) : State :=
  { s with rx := { s.rx with length := setLowByte s.rx.length b, csum := s.rx.csum + b, state := .awaitLenHi } }

/-- The effect of RX.LENHI (rules R146 to R148). -/
def rxLenHi (b : Byte) (s : State) : State :=
  let n := setHighByte s.rx.length b
  let s' := { s with rx := { s.rx with length := n, csum := s.rx.csum + b } }
  if s.cfg.maxLen s.rx.command < n then s'.raise .lengthOverflow
  else if n = 0 then { s' with rx := { s'.rx with state := .awaitCsum } }
  else { s' with rx := { s'.rx with state := .awaitData } }

/-- Stores a payload byte at the payload index if it is below the capacity; a byte beyond is dropped (rules R61, R149, R150). -/
def storePayload (b : Byte) (s : State) : State :=
  if s.rx.counter < s.rx.capacity then
    match s.rx.target with
    | .ans => s.storeAns s.rx.counter.toNat b
    | .rxbuf => s.storeRxbuf s.rx.counter.toNat b
    | .none => s
  else s

/-- The payload byte is counted, stored or not, and the state advances at the last one (rules R149, R150). -/
def countByte (s : State) : State :=
  { s with rx := { s.rx with
    counter := s.rx.counter + 1
    state := if s.rx.counter + 1 = s.rx.length then .awaitCsum else .awaitData } }

/-- The effect of RX.DATA (rules R149, R150). -/
def rxData (b : Byte) (s : State) : State := countByte (storePayload b (foldByte s b))

/-- The effect of RX.CSUM (rules R151, R152). -/
def rxCsum (b : Byte) (s : State) : State :=
  if b = s.rx.csum then { s with rx := { s.rx with state := .awaitTerm } } else s.raise .checksumMismatch

/-- The effect of RX.TERM, the dispatch and the return to `IDLE` included (rules R153, R175). -/
def rxTerm (b : Byte) (s : State) : State :=
  if b = s.cfg.eof then (dispatchFrame s).returnToIdle else s.raise .terminatorMismatch

/-- FEED(b): the arm that `rx.state` selects (rule R140). -/
def feed (b : Byte) (s : State) : State :=
  match s.rx.state with
  | .idle => rxIdle b s
  | .awaitCmd => rxCmd b s
  | .awaitLenLo => rxLenLo b s
  | .awaitLenHi => rxLenHi b s
  | .awaitData => rxData b s
  | .awaitCsum => rxCsum b s
  | .awaitTerm => rxTerm b s

/-- One FEED step per byte, in order (rule R108). -/
def feedAll : List Byte → State → State
  | [], s => s
  | b :: bs, s => feedAll bs (feed b s)

/-- FEED (rule R140): always enabled. -/
def execFeed (b : Byte) (s : State) : Host.Outcome State Fault Refusal := .next (feed b s)

/-- RX.IDLE (rule R141). -/
def execRxIdle (b : Byte) (s : State) : Host.Outcome State Fault Refusal :=
  nextIf (decide (s.rx.state = .idle)) .armNotSelected (rxIdle b s)

/-- RX.CMD (rule R142). -/
def execRxCmd (b : Byte) (s : State) : Host.Outcome State Fault Refusal :=
  nextIf (decide (s.rx.state = .awaitCmd)) .armNotSelected (rxCmd b s)

/-- RX.LENLO (rule R145). -/
def execRxLenLo (b : Byte) (s : State) : Host.Outcome State Fault Refusal :=
  nextIf (decide (s.rx.state = .awaitLenLo)) .armNotSelected (rxLenLo b s)

/-- RX.LENHI (rule R146). -/
def execRxLenHi (b : Byte) (s : State) : Host.Outcome State Fault Refusal :=
  nextIf (decide (s.rx.state = .awaitLenHi)) .armNotSelected (rxLenHi b s)

/-- RX.DATA (rule R149). -/
def execRxData (b : Byte) (s : State) : Host.Outcome State Fault Refusal :=
  nextIf (decide (s.rx.state = .awaitData)) .armNotSelected (rxData b s)

/-- RX.CSUM (rule R151). -/
def execRxCsum (b : Byte) (s : State) : Host.Outcome State Fault Refusal :=
  nextIf (decide (s.rx.state = .awaitCsum)) .armNotSelected (rxCsum b s)

/-- RX.TERM (rule R153). -/
def execRxTerm (b : Byte) (s : State) : Host.Outcome State Fault Refusal :=
  nextIf (decide (s.rx.state = .awaitTerm)) .armNotSelected (rxTerm b s)

end Sys2Proof.Machine
end

