-- ==== Sys2Proof/Machine/Correlator.lean ====
section
/-! DEFINITION. The command/answer correlator (43_correlator.md): the SW steps, and the two pseudo-operations made of them. -/

namespace Sys2Proof.Machine

/-- The effect of SW.ACQ (rule R186). -/
def acquire (r : Request) (s : State) : State :=
  { s with lock := true, rq := r, co := { s.co with stage := .locked } }

/-- The effect of SW.POP (rule R187). -/
def populate (s : State) : State :=
  { s with
    pend := { s.pend with
      active := true, command := s.rq.command, answerCapacity := s.rq.capacity, answerLength := 0 }
    co := { s.co with stage := .populated } }

/-- The effect of SW.TX(ok) (rules R188, R246). -/
def transmit (ok : Bool) (s : State) : State :=
  let s' := s.writeFrame (encodeFrame s.cfg s.rq.command s.rq.payload)
  if ok then { s' with co := { s'.co with stage := .wait } } else s'.raise .writeFailure

/-- A wait that returned `signaled`: the sequences are compared; the exchange is over or waits again (rules R189, R190). -/
def recheck (s : State) : State :=
  if s.sequencesAgree then { s with co := { stage := .exit, result := .ok } } else s

/-- The effect of SW.WAKE (rule R189). -/
def wake (s : State) : State := recheck { s with sig := false }

/-- The effect of SW.SPURIOUS (rule R190). -/
def spuriousWake (s : State) : State := recheck s

/-- The effect of SW.TIMEOUT (rules R191, R247). -/
def timeOut (s : State) : State := s.raise .timeout

/-- The Pending Command at the end of an exchange (rules R32, R33, R193; D38). -/
def clearPending (p : Pend) : Pend :=
  { p with active := false, command := 0, sendSequence := p.sendSequence + 1, answerCapacity := 0, answerLength := 0 }

/-- The effect of SW.EXIT, the return included (rules R193, R194). -/
def exitExchange (s : State) : State :=
  { s with pend := clearPending s.pend, lock := false, co := { s.co with stage := .idle } }.emit
    (.ret s.exitStatus s.pend.answerLength)

/-- SW.ACQ's outcome for a request: the arguments in range, the lock free (rules R186, R196). -/
def acquireThen (r : Request) (t : State) (s : State) : Host.Outcome State Fault Refusal :=
  if s.inRange r then nextIf s.lockFree .lockHeld t else .refused .requestOutOfRange

/-- SW.ACQ (rule R186). -/
def execSwAcq (command : Byte) (payload : List Byte) (capacity : Half) (ack : Bool) (s : State) :
    Host.Outcome State Fault Refusal :=
  acquireThen ⟨command, payload, capacity, ack⟩ (acquire ⟨command, payload, capacity, ack⟩ s) s

/-- SW.POP (rule R187). -/
def execSwPop (s : State) : Host.Outcome State Fault Refusal :=
  nextIf (decide (s.co.stage = .locked)) .stageNotReached (populate s)

/-- SW.TX (rule R188). -/
def execSwTx (ok : Bool) (s : State) : Host.Outcome State Fault Refusal :=
  nextIf (decide (s.co.stage = .populated)) .stageNotReached (transmit ok s)

/-- SW.WAKE (rule R189). -/
def execSwWake (s : State) : Host.Outcome State Fault Refusal :=
  if s.co.stage = .wait then nextIf s.sig .noSignal (wake s) else .refused .stageNotReached

/-- SW.SPURIOUS (rule R190). -/
def execSwSpurious (s : State) : Host.Outcome State Fault Refusal :=
  nextIf s.canSpurious .stageNotReached (spuriousWake s)

/-- SW.TIMEOUT (rule R191). -/
def execSwTimeout (s : State) : Host.Outcome State Fault Refusal :=
  if s.co.stage = .wait then nextIf (!s.sig) .signalLatched (timeOut s) else .refused .stageNotReached

/-- SW.EXIT (rule R193). -/
def execSwExit (s : State) : Host.Outcome State Fault Refusal :=
  nextIf (decide (s.co.stage = .exit)) .stageNotReached (exitExchange s)

/-- One move of a plan while an exchange waits. A return of the wait that is not enabled does not happen (rule R196; log
entry 8). -/
def waitMove (m : WaitMove) (s : State) : State :=
  match m with
  | .feed b => feed b s
  | .wake => if s.canWake then wake s else s
  | .spurious => if s.canSpurious then spuriousWake s else s
  | .timeout => if s.canTimeout then timeOut s else s

/-- The moves of a plan, in order. -/
def waitMoves : List WaitMove → State → State
  | [], s => s
  | m :: ms, s => waitMoves ms (waitMove m s)

/-- Every exchange ends (rule R200): what is still enabled in `C_WAIT` is taken, a latched signal first, then the timeout, which
is enabled only without one (rules R191, R253; log entry 8). -/
def endWait (s : State) : State := waitMove .timeout (waitMove .wake s)

/-- One exchange, from SW.ACQ to SW.EXIT, with the feeder's steps where the plan puts them (rules R109 a, R185). -/
def exchange (r : Request) (plan : ExchangePlan) (s : State) : State :=
  let s1 := feedAll plan.afterAcq (acquire r s)
  let s2 := feedAll plan.afterPop (populate s1)
  let s3 := waitMoves plan.moves (transmit plan.ok s2)
  exitExchange (endWait s3)

/-- SEND_AND_WAIT (rule R185): the sequence of its steps in one interleaving, the plan's. -/
def execSendAndWait (command : Byte) (payload : List Byte) (capacity : Half) (plan : ExchangePlan) (s : State) :
    Host.Outcome State Fault Refusal :=
  acquireThen ⟨command, payload, capacity, false⟩ (exchange ⟨command, payload, capacity, false⟩ plan s) s

/-- SEND_AND_WAIT_ACK (rule R195): capacity 1, the acknowledge byte judged at SW.EXIT. -/
def execSendAndWaitAck (command : Byte) (payload : List Byte) (plan : ExchangePlan) (s : State) :
    Host.Outcome State Fault Refusal :=
  acquireThen ⟨command, payload, 1, true⟩ (exchange ⟨command, payload, 1, true⟩ plan s) s

end Sys2Proof.Machine
end

