-- ==== Sys2Proof/Machine/Environment.lean ====
section
/-! DEFINITION. The host's read, reset, and the four output events as operations (20_memory.md, 44_environment.md,
70_reset_and_hazards.md). -/

namespace Sys2Proof.Machine

/-- HOST.READ (rule R66): any time, no state changed, the byte handed back (log entries 9 and 10). -/
def execHostRead (i : Nat) (s : State) : Host.Outcome State Fault Refusal :=
  if i < s.cfg.ansMax.toNat then .next (s.emit (.hostRead i (s.readAns i))) else .fault (.noSuchAnswerByte i)

/-- The effect of RESET (rules R44, R280): every item of rule R20 takes its reset value; `ANS` and `RXBUF` hold unspecified bytes,
new free values. Nothing is emitted; the trace, the environment's schedule and the count of its open choices are no items of rule R20
and stay (log entries 9 and 17). -/
def resetBlock (s : State) : State :=
  { State.powerOn s.cfg with outputs := s.outputs, schedule := s.schedule, epoch := s.epoch + 1, choices := s.choices }

/-- RESET (rule R280). -/
def execReset (s : State) : Host.Outcome State Fault Refusal := .next (resetBlock s)

/-- write (rule R216): one whole frame per event. The transport's answer `ok` goes to the step that makes the call: SW.TX acts on
it (rule R188), RX.CSUM does not look at it (rule R152). The event itself changes nothing by it. -/
def execWrite (frame : List Byte) (_ok : Bool) (s : State) : Host.Outcome State Fault Refusal := .next (s.writeFrame frame)

/-- raise_signal (rule R218). -/
def execRaiseSignal (s : State) : Host.Outcome State Fault Refusal := .next s.raiseSignal

/-- on_receive (rule R220). -/
def execOnReceive (bytes : List Byte) (length : Half) (s : State) : Host.Outcome State Fault Refusal :=
  .next (s.deliver bytes length)

/-- log (rule R221): the five receiver-side kinds. -/
def execLog (kind : ErrorKind) (s : State) : Host.Outcome State Fault Refusal :=
  nextIf kind.isLogged .kindNotLogged (s.logKind kind)

end Sys2Proof.Machine
end

