-- ==== Sys2Proof/Machine/Frames.lean ====
section
/-! DEFINITION. The frame rows (30_encoding.md). A frame from the peer is fed byte by byte, one FEED step per byte with no other
agent's step between (rule R108; log entry 6); other interleavings are written with FEED. A frame to the peer is one `write` (log
entry 7). -/

namespace Sys2Proof.Machine

/-- The frame with code `c` and payload `p` arrives. -/
def receiveWhole (c : Byte) (p : List Byte) (s : State) : Host.Outcome State Fault Refusal :=
  nextIf (encodable p) .payloadTooLong (feedAll (encodeFrame s.cfg c p) s)

/-- FRAME.ANSWER (rules R99, R142, R171). -/
def execFrameAnswer (c : Byte) (p : List Byte) (s : State) : Host.Outcome State Fault Refusal := receiveWhole c p s

/-- FRAME.RECEIVE (rules R99, R142, R173). -/
def execFrameReceive (p : List Byte) (s : State) : Host.Outcome State Fault Refusal := receiveWhole s.cfg.cmdReceive p s

/-- FRAME.INVALID (rules R99, R142, R172). -/
def execFrameInvalid (p : List Byte) (s : State) : Host.Outcome State Fault Refusal := receiveWhole s.cfg.cmdInvalid p s

/-- FRAME.UNKNOWN: the frame is abandoned at its command byte, and later bytes are read from `IDLE` (rules R102, R241). -/
def execFrameUnknown (c : Byte) (s : State) : Host.Outcome State Fault Refusal :=
  .next (feedAll (markerAndCommand s.cfg c) s)

/-- FRAME.COMMAND: the frame goes to the transport whole (rules R76, R90, R122). -/
def execFrameCommand (c : Byte) (p : List Byte) (s : State) : Host.Outcome State Fault Refusal :=
  nextIf (encodable p) .payloadTooLong (s.writeFrame (encodeFrame s.cfg c p))

/-- CMD.VERSION: the request frame, with empty payload (rule R100). -/
def execCmdVersion (s : State) : Host.Outcome State Fault Refusal :=
  .next (s.writeFrame (encodeFrame s.cfg Config.cmdVersion []))

/-- FRAME.ACK: an acknowledge-success frame arrives (rules R101, R123, R195). -/
def execFrameAck (c : Byte) (s : State) : Host.Outcome State Fault Refusal := .next (feedAll (encodeAckFrame s.cfg c true) s)

/-- FRAME.NACK: the negative acknowledge goes to the transport (rules R101, R123, R152). -/
def execFrameNack (c : Byte) (s : State) : Host.Outcome State Fault Refusal :=
  .next (s.writeFrame (encodeAckFrame s.cfg c false))

end Sys2Proof.Machine
end

