-- ==== Sys2Proof/Machine/Dispatch.lean ====
section
/-! DEFINITION. One arm per operation: each calls its meaning. -/

namespace Sys2Proof.Machine

def exec (i : Instr) (s : State) : Host.Outcome State Fault Refusal :=
  match i with
  | .frameAnswer c p => Sys2Proof.Machine.execFrameAnswer c p s
  | .frameReceive p => Sys2Proof.Machine.execFrameReceive p s
  | .frameInvalid p => Sys2Proof.Machine.execFrameInvalid p s
  | .frameUnknown c => Sys2Proof.Machine.execFrameUnknown c s
  | .frameCommand c p => Sys2Proof.Machine.execFrameCommand c p s
  | .cmdVersion => Sys2Proof.Machine.execCmdVersion s
  | .frameAck c => Sys2Proof.Machine.execFrameAck c s
  | .frameNack c => Sys2Proof.Machine.execFrameNack c s
  | .feed b => Sys2Proof.Machine.execFeed b s
  | .rxIdle b => Sys2Proof.Machine.execRxIdle b s
  | .rxCmd b => Sys2Proof.Machine.execRxCmd b s
  | .rxLenLo b => Sys2Proof.Machine.execRxLenLo b s
  | .rxLenHi b => Sys2Proof.Machine.execRxLenHi b s
  | .rxData b => Sys2Proof.Machine.execRxData b s
  | .rxCsum b => Sys2Proof.Machine.execRxCsum b s
  | .rxTerm b => Sys2Proof.Machine.execRxTerm b s
  | .dispatch => Sys2Proof.Machine.execDispatch s
  | .dispAnswer => Sys2Proof.Machine.execDispAnswer s
  | .dispInvalid => Sys2Proof.Machine.execDispInvalid s
  | .dispReceive => Sys2Proof.Machine.execDispReceive s
  | .sendAndWait command payload capacity plan => Sys2Proof.Machine.execSendAndWait command payload capacity plan s
  | .sendAndWaitAck command payload plan => Sys2Proof.Machine.execSendAndWaitAck command payload plan s
  | .swAcq command payload capacity ack => Sys2Proof.Machine.execSwAcq command payload capacity ack s
  | .swPop => Sys2Proof.Machine.execSwPop s
  | .swTx ok => Sys2Proof.Machine.execSwTx ok s
  | .swWake => Sys2Proof.Machine.execSwWake s
  | .swSpurious => Sys2Proof.Machine.execSwSpurious s
  | .swTimeout => Sys2Proof.Machine.execSwTimeout s
  | .swExit => Sys2Proof.Machine.execSwExit s
  | .csum8 bytes => Sys2Proof.Machine.execCsum8 bytes s
  | .encode c p => Sys2Proof.Machine.execEncode c p s
  | .encodeAck c success => Sys2Proof.Machine.execEncodeAck c success s
  | .hostRead k => Sys2Proof.Machine.execHostRead k s
  | .reset => Sys2Proof.Machine.execReset s
  | .write frame ok => Sys2Proof.Machine.execWrite frame ok s
  | .raiseSignal => Sys2Proof.Machine.execRaiseSignal s
  | .onReceive bytes length => Sys2Proof.Machine.execOnReceive bytes length s
  | .log kind => Sys2Proof.Machine.execLog kind s

end Sys2Proof.Machine
end

