-- ==== Sys2Proof/Machine/Schedule.lean ====
section
/-! DEFINITION. Which operation the block takes next (rules R21, R71, R107, R196, R200): the first one of the environment's schedule
that is enabled, else the sequencer's own next step. An operation that is not enabled waits in the schedule (rules R21, R186). -/

namespace Sys2Proof.Machine

/-- Whether an agent takes the operation as a step of its own. The router's substeps, the output events and the frames the block
sends happen inside other steps only (rules R76, R170, R174, R218; log entry 16). -/
def isOwnStep : Instr → Bool
  | .frameAnswer _ _ => true
  | .frameReceive _ => true
  | .frameInvalid _ => true
  | .frameUnknown _ => true
  | .frameCommand _ _ => false
  | .cmdVersion => false
  | .frameAck _ => true
  | .frameNack _ => false
  | .feed _ => true
  | .rxIdle _ => true
  | .rxCmd _ => true
  | .rxLenLo _ => true
  | .rxLenHi _ => true
  | .rxData _ => true
  | .rxCsum _ => true
  | .rxTerm _ => true
  | .dispatch => false
  | .dispAnswer => false
  | .dispInvalid => false
  | .dispReceive => false
  | .sendAndWait _ _ _ _ => true
  | .sendAndWaitAck _ _ _ => true
  | .swAcq _ _ _ _ => true
  | .swPop => true
  | .swTx _ => true
  | .swWake => true
  | .swSpurious => true
  | .swTimeout => true
  | .swExit => true
  | .csum8 _ => true
  | .encode _ _ => true
  | .encodeAck _ _ => true
  | .hostRead _ => true
  | .reset => true
  | .write _ _ => false
  | .raiseSignal => false
  | .onReceive _ _ => false
  | .log _ => false

/-- When an operation is enabled: the "match" column of spec/opcode_table.json and the "enabled when" clauses of the rules. -/
def enabled (s : State) : Instr → Bool
  | .frameAnswer _ p => encodable p
  | .frameReceive p => encodable p
  | .frameInvalid p => encodable p
  | .frameUnknown _ => true
  | .frameCommand _ p => encodable p
  | .cmdVersion => true
  | .frameAck _ => true
  | .frameNack _ => true
  | .feed _ => true
  | .rxIdle _ => decide (s.rx.state = .idle)
  | .rxCmd _ => decide (s.rx.state = .awaitCmd)
  | .rxLenLo _ => decide (s.rx.state = .awaitLenLo)
  | .rxLenHi _ => decide (s.rx.state = .awaitLenHi)
  | .rxData _ => decide (s.rx.state = .awaitData)
  | .rxCsum _ => decide (s.rx.state = .awaitCsum)
  | .rxTerm _ => decide (s.rx.state = .awaitTerm)
  | .dispatch => s.atTerminator && decide (s.rx.type ≠ .none)
  | .dispAnswer => s.atTerminator && decide (s.rx.type = .answer)
  | .dispInvalid => s.atTerminator && decide (s.rx.type = .invalid)
  | .dispReceive => s.atTerminator && decide (s.rx.type = .receive)
  | .sendAndWait command payload capacity _ => s.inRange ⟨command, payload, capacity, false⟩ && s.lockFree
  | .sendAndWaitAck command payload _ => s.inRange ⟨command, payload, 1, true⟩ && s.lockFree
  | .swAcq command payload capacity ack => s.inRange ⟨command, payload, capacity, ack⟩ && s.lockFree
  | .swPop => decide (s.co.stage = .locked)
  | .swTx _ => decide (s.co.stage = .populated)
  | .swWake => s.canWake
  | .swSpurious => s.canSpurious
  | .swTimeout => s.canTimeout
  | .swExit => decide (s.co.stage = .exit)
  | .csum8 _ => true
  | .encode _ p => encodable p
  | .encodeAck _ _ => true
  | .hostRead i => decide (i < s.cfg.ansMax.toNat)
  | .reset => true
  | .write _ _ => true
  | .raiseSignal => true
  | .onReceive _ _ => true
  | .log kind => kind.isLogged

/-- The bytes of a chunk that are left, put back at the front of the schedule. -/
def leftover (more : List Byte) (rest : List Input) : List Input := if more = [] then rest else .bytes more :: rest

/-- The next operation and the schedule without it. Bytes are fetched by the decoder; an operation that no agent may take now is
passed over and stays where it is (log entry 2). -/
def takeNext (s : State) : List Input → Option (Instr × List Input)
  | [] => none
  | .bytes bs :: rest =>
    match decode s.view bs with
    | .ok (i, more) => some (i, leftover more rest)
    | .error _ => takeNext s rest
  | .op i :: rest =>
    if isOwnStep i && enabled s i then some (i, rest)
    else
      match takeNext s rest with
      | some (j, rest') => some (j, .op i :: rest')
      | none => none

/-- Takes the schedule for what is left of it. -/
def reschedule (s : State) (rest : List Input) : State := { s with schedule := rest }

/-- The next result of `write` is the environment's choice: a free value, a new one each time (U5; log entry 17). -/
def drawChoice (s : State) : State := { s with choices := s.choices + 1 }

/-- The step the correlator sequencer takes of itself while the environment schedules nothing that is enabled, and the state it takes
it in: a step of rule R196 that stays enabled is taken, and in `C_WAIT` with no signal the wait times out (rule R200; D33). Not among
them are SW.ACQ, which a caller asks for (rule R21), and SW.SPURIOUS, which the environment may never make happen (rule R190). -/
def sequencerNext (s : State) : Option (Instr × State) :=
  match s.co.stage with
  | .idle => none
  | .locked => some (.swPop, s)
  | .populated => some (.swTx (Config.writeResult s.choices), drawChoice s)
  | .wait => some (if s.sig then .swWake else .swTimeout, s)
  | .exit => some (.swExit, s)

/-- The operation a step runs and the state it runs in: the schedule's first, the sequencer's own where the schedule has none that is
enabled, none where the sequencer is idle too (rules R21, R200; log entries 2 and 17). -/
def nextOperation (s : State) : Option (Instr × State) :=
  match takeNext s s.schedule with
  | some (i, rest) => some (i, reschedule s rest)
  | none => sequencerNext s

end Sys2Proof.Machine
end

