-- ==== Sys2Proof/Machine/Step.lean ====
section
/-! DEFINITION. One step of the block: the next enabled operation of the environment's schedule runs, or else the sequencer's own
next step (rules R5, R21, R71, R200). -/

namespace Sys2Proof.Machine

/-- One step. With nothing scheduled that is enabled and no exchange in progress the block waits for its environment, a byte or a
caller, and nothing changes (rules R200, R222). -/
def step (s : State) : Host.Outcome State Fault Refusal :=
  match nextOperation s with
  | some (i, t) => exec i t
  | none => .next s

/-- `s` with the bytes of a table word at the front of the schedule, where `step` fetches next. -/
def State.withFetchWord (s : State) (nbits w : Nat) : State :=
  { s with schedule := .bytes (tableBytes nbits w) :: s.schedule }

end Sys2Proof.Machine
end

