-- ==== Sys2Proof/Safety.lean ====
section
/-! DEFINITION. What a safe state is: the invariants of rule R47 and of the rules it gathers, and what a run and a fair run are (rules
R71, R200), in the terms the claims use. -/

namespace Sys2Proof.Machine

/-- The stages in which a command is pending (rule R36). -/
def commandPending : Stage → Bool
  | .idle => false
  | .locked => false
  | .populated => true
  | .wait => true
  | .exit => true

/-- The receiver is past `AWAIT_CMD` in a frame (rule R47 h). -/
def pastCommand : RxState → Bool
  | .idle => false
  | .awaitCmd => false
  | .awaitLenLo => true
  | .awaitLenHi => true
  | .awaitData => true
  | .awaitCsum => true
  | .awaitTerm => true

/-- The receiver is in a frame and before its payload. -/
def beforeData : RxState → Bool
  | .idle => false
  | .awaitCmd => true
  | .awaitLenLo => true
  | .awaitLenHi => true
  | .awaitData => false
  | .awaitCsum => false
  | .awaitTerm => false

/-- What the capacity of a target may be (rules R47 f, R61). -/
def capacityAllowed (cfg : Config) (t : Target) (cap : Half) : Bool :=
  match t with
  | .none => decide (cap = 0)
  | .ans => decide (cap ≤ cfg.ansMax)
  | .rxbuf => decide (cap = cfg.rxbufCap)

/-- The invariant of every reachable state. -/
structure Inv (s : State) : Prop where
  /-- the configuration meets rule R7 -/
  config : s.cfg.wf = true
  /-- rule R25: type and target agree -/
  typeTarget : s.rx.target = targetOf s.rx.type
  /-- rules R47 f, R61: the capacity is one of its target's -/
  capacity : capacityAllowed s.cfg s.rx.target s.rx.capacity = true
  /-- rules R27, R47 b: the counter never passes the length -/
  counterLe : s.rx.counter ≤ s.rx.length
  /-- rule R26: the counter is 0 when the payload starts -/
  counterStart : beforeData s.rx.state = true → s.rx.counter = 0
  /-- rule R47 g: in `AWAIT_DATA` there is payload left, within the maximum -/
  dataPhase : s.rx.state = .awaitData → s.rx.counter < s.rx.length ∧ s.rx.length ≤ s.cfg.maxLen s.rx.command
  /-- rule R47 g: in the footer the payload is complete, within the maximum -/
  footerPhase : s.rx.state = .awaitCsum ∨ s.rx.state = .awaitTerm →
    s.rx.counter = s.rx.length ∧ s.rx.length ≤ s.cfg.maxLen s.rx.command
  /-- rule R47 h: past `AWAIT_CMD` the frame is classified -/
  classified : pastCommand s.rx.state = true → s.rx.type ≠ .none
  /-- rules R36, R47 d: a command is pending exactly from `SW.POP` to `SW.EXIT` -/
  pendingStage : s.pend.active = commandPending s.co.stage
  /-- rule R31: with nothing pending the command and the capacity are 0 -/
  nonePending : s.pend.active = false → s.pend.command = 0 ∧ s.pend.answerCapacity = 0
  /-- rule R34: the capacity offered is one of `ANS` -/
  offered : s.pend.answerCapacity ≤ s.cfg.ansMax
  /-- rule R47 e: the lock is held exactly during an exchange -/
  lockStage : s.lock = decide (s.co.stage ≠ .idle)
  /-- rule R37: the latched request is in range -/
  request : s.co.stage ≠ .idle → s.inRange s.rq = true
  /-- rules R43, R61: `ANS` is in canonical form and within its size -/
  ansForm : Memory.wf s.ans = true ∧ Memory.within s.cfg.ansMax.toNat s.ans = true
  /-- rules R43, R61: `RXBUF` is in canonical form and within its size -/
  rxbufForm : Memory.wf s.rxbuf = true ∧ Memory.within s.cfg.rxbufCap.toNat s.rxbuf = true

/-- The next state of an outcome, if it is one. -/
def nextState? : Host.Outcome State Fault Refusal → Option State
  | .next t => some t
  | .fault _ => none
  | .refused _ => none

/-- Runs operations in order, stopping at the first that does not answer a next state. -/
def runAll : List Instr → State → Host.Outcome State Fault Refusal
  | [], s => .next s
  | i :: is, s =>
    match exec i s with
    | .next t => runAll is t
    | .fault f => .fault f
    | .refused r => .refused r

/-- A run without end of the block: one total order of steps of the agents, in any interleaving (rules R21, R71). `act n` is the step
from `σ n` to `σ (n + 1)`. -/
def IsRun (σ : Nat → State) (act : Nat → Instr) : Prop :=
  ∀ n, isOwnStep (act n) = true ∧ exec (act n) (σ n) = .next (σ (n + 1))

/-- The steps of rule R196 that the sequencer takes of itself, SW.TX with either answer of the transport being one step. SW.ACQ is
asked for by a caller (rule R21) and SW.SPURIOUS may never happen (rule R190). -/
def sequencerSteps : List (List Instr) :=
  [[.swPop], [.swTx true, .swTx false], [.swWake], [.swTimeout], [.swExit]]

/-- Weak fairness of the sequencer (rule R200; D33): a step that stays enabled is eventually taken. -/
def WeaklyFair (σ : Nat → State) (act : Nat → Instr) : Prop :=
  ∀ steps ∈ sequencerSteps, ∀ n, (∀ m, n ≤ m → ∃ i ∈ steps, enabled (σ m) i = true) → ∃ m, n ≤ m ∧ act m ∈ steps

/-- How many operations and bytes the environment has scheduled. -/
def scheduledSize : List Input → Nat
  | [] => 0
  | .bytes bs :: rest => bs.length + scheduledSize rest
  | .op _ :: rest => 1 + scheduledSize rest

end Sys2Proof.Machine
end

