-- ==== Sys2Proof/Certificates/Slice0/Obligations.lean ====
section
/-! DEFINITION. The statements for the provers. Each docstring names the rules of spec/ it formalises. Where a rule carries the
spec's own mark `[decision: D<n>]` or `[derived]`, the statement is derived and its docstring says so. -/

open Sys2Proof Sys2Proof.Machine

/-! ## The codec and the encodings -/

/-- 40_codec.md section 1 (rule R120): CSUM8 is the sum of the bytes modulo 256, for a sequence of any length, and the operation
hands it back and writes nothing else. That a returned value is recorded in the trace is the model's own choice (log entry 9). -/
def Obligations.CsumIsTheTruncatedSum : Prop :=
  (∀ bs : List Byte, (csum8 bs).toNat = (bs.map BitVec.toNat).sum % 256) ∧
  ∀ (bs : List Byte) (s : State), exec (.csum8 bs) s = .next { s with outputs := s.outputs ++ [.value [csum8 bs]] }

/-- 40_codec.md section 1 (rule R121, which the spec derives): the checksum of a concatenation is the 8-bit sum of the checksums. -/
def Obligations.CsumOfConcatenation : Prop :=
  ∀ a b : List Byte, csum8 (a ++ b) = csum8 a + csum8 b ∧ (csum8 (a ++ b)).toNat = ((csum8 a).toNat + (csum8 b).toNat) % 256

/-- 40_codec.md section 2 (rule R122): ENCODE is header, payload, checksum of both, terminator, `6 + |p|` bytes, low length byte
first; a longer payload is outside its domain. The record of the value and the name of the refusal are the model's own choices (log
entries 9 and 10). -/
def Obligations.EncodeBuildsHeaderPayloadFooter : Prop :=
  (∀ (s : State) (c : Byte) (p body : List Byte), p.length ≤ 65535 →
    body = [s.cfg.sof, c, BitVec.ofNat 8 (p.length % 256), BitVec.ofNat 8 (p.length / 256)] ++ p →
    exec (.encode c p) s = .next { s with outputs := s.outputs ++ [.value (body ++ [csum8 body, s.cfg.eof])] } ∧
    (body ++ [csum8 body, s.cfg.eof]).length = 6 + p.length) ∧
  ∀ (s : State) (c : Byte) (p : List Byte), 65535 < p.length → exec (.encode c p) s = .refused .payloadTooLong

/-- 40_codec.md section 2 (rule R123): ENCODE_ACK is the 7-byte frame whose payload is `00` for success and `01` for failure, for
every command code. The record of the value is the model's own choice (log entry 9). -/
def Obligations.EncodeAckBuildsTheSevenByteFrame : Prop :=
  ∀ (s : State) (c : Byte) (success : Bool) (a : Byte), a = (if success then 0x00 else 0x01) →
    exec (.encodeAck c success) s =
      .next { s with outputs := s.outputs ++ [.value [s.cfg.sof, c, 0x01, 0x00, a, s.cfg.sof + c + 1 + a, s.cfg.eof]] }

/-- 30_encoding.md sections 1 and 2, 40_codec.md section 2: on the transmit side, decoding the encoding of each row gives it back
and leaves the bytes after the frame; a command frame whose payload is an acknowledge byte, or that is the version request, has the
same bytes as the acknowledge, negative-acknowledge or version row. Which row such a frame is read as (acknowledge, then negative
acknowledge, then version, then command) is the model's reading, log entry 15 (DEDUCED): the spec gives no order among them. -/
def Obligations.SentFramesDecodeToTheirRows : Prop :=
  ∀ (cfg : Config) (rest : List Byte),
    (∀ (c : Byte) (bs : List Byte), encode cfg (.frameAck c) = some bs →
      decodeSent cfg (bs ++ rest) = .ok (.frameAck c, rest)) ∧
    (∀ (c : Byte) (bs : List Byte), encode cfg (.frameNack c) = some bs →
      decodeSent cfg (bs ++ rest) = .ok (.frameNack c, rest)) ∧
    (∀ bs : List Byte, encode cfg .cmdVersion = some bs → decodeSent cfg (bs ++ rest) = .ok (.cmdVersion, rest)) ∧
    (∀ (c : Byte) (p bs : List Byte), p.length ≤ 65535 → encode cfg (.frameCommand c p) = some bs →
      decodeSent cfg (bs ++ rest) =
        .ok (if p = [0x00] then .frameAck c else if p = [0x01] then .frameNack c
          else if c = 0x3A ∧ p = [] then .cmdVersion else .frameCommand c p, rest))

/-- 30_encoding.md sections 1 to 4: on the receive side, in `IDLE`, decoding the encoding of a frame row gives it back, at every
payload its command admits; in every other state, and for a byte that starts no frame, one byte is the arm `rx.state` selects. That
a whole frame is fetched as its row where one stands complete in `IDLE` is the model's own choice (log entries 2 and 6). -/
def Obligations.ReceivedFramesDecodeToTheirRows : Prop :=
  ∀ (v : View) (rest bs : List Byte),
    (∀ (c : Byte) (p : List Byte), v.rxState = .idle → v.awaited = some c → p.length ≤ (v.cfg.maxLen c).toNat →
      encode v.cfg (.frameAnswer c p) = some bs → decode v (bs ++ rest) = .ok (.frameAnswer c p, rest)) ∧
    (∀ p : List Byte, v.rxState = .idle → v.awaited ≠ some v.cfg.cmdReceive →
      p.length ≤ (v.cfg.maxLen v.cfg.cmdReceive).toNat →
      encode v.cfg (.frameReceive p) = some bs → decode v (bs ++ rest) = .ok (.frameReceive p, rest)) ∧
    (∀ p : List Byte, v.rxState = .idle → v.awaited ≠ some v.cfg.cmdInvalid → v.cfg.cmdInvalid ≠ v.cfg.cmdReceive →
      p.length ≤ (v.cfg.maxLen v.cfg.cmdInvalid).toNat →
      encode v.cfg (.frameInvalid p) = some bs → decode v (bs ++ rest) = .ok (.frameInvalid p, rest)) ∧
    (∀ c : Byte, v.rxState = .idle → v.awaited ≠ some c → c ≠ v.cfg.cmdReceive → c ≠ v.cfg.cmdInvalid →
      encode v.cfg (.frameUnknown c) = some bs → decode v (bs ++ rest) = .ok (.frameUnknown c, rest)) ∧
    (∀ b : Byte, v.rxState = .idle → b ≠ v.cfg.sof → decode v (b :: rest) = .ok (.rxIdle b, rest)) ∧
    (v.rxState = .idle → decode v [v.cfg.sof] = .ok (.rxIdle v.cfg.sof, [])) ∧
    (∀ b : Byte, v.rxState = .awaitCmd → decode v (b :: rest) = .ok (.rxCmd b, rest)) ∧
    (∀ b : Byte, v.rxState = .awaitLenLo → decode v (b :: rest) = .ok (.rxLenLo b, rest)) ∧
    (∀ b : Byte, v.rxState = .awaitLenHi → decode v (b :: rest) = .ok (.rxLenHi b, rest)) ∧
    (∀ b : Byte, v.rxState = .awaitData → decode v (b :: rest) = .ok (.rxData b, rest)) ∧
    (∀ b : Byte, v.rxState = .awaitCsum → decode v (b :: rest) = .ok (.rxCsum b, rest)) ∧
    (∀ b : Byte, v.rxState = .awaitTerm → decode v (b :: rest) = .ok (.rxTerm b, rest))

/-- Words written out from the frame format with the bytes of test configuration `T` (95_test_vectors.md V11, V13, V22, V10, V17,
V18): a sanity statement. The last three also fit the command row; that they are read as the version, acknowledge and negative
acknowledge rows is the model's reading (log entry 15, DEDUCED). -/
def Obligations.WrittenOutFramesDecode : Prop :=
  decode resetView [0x02, 0x80, 0x04, 0x00, 0xDE, 0xAD, 0xBE, 0xEF, 0xBE, 0x03] = .ok (.frameReceive [0xDE, 0xAD, 0xBE, 0xEF], []) ∧
  decode resetView [0x02, 0xFF, 0x00, 0x00, 0x01, 0x03] = .ok (.frameInvalid [], []) ∧
  decode resetView [0x02, 0x3A] = .ok (.frameUnknown 0x3A, []) ∧
  decodeSent Config.T [0x02, 0x3A, 0x00, 0x00, 0x3C, 0x03] = .ok (.cmdVersion, []) ∧
  decodeSent Config.T [0x02, 0x10, 0x01, 0x00, 0x00, 0x13, 0x03] = .ok (.frameAck 0x10, []) ∧
  decodeSent Config.T [0x02, 0x10, 0x01, 0x00, 0x01, 0x14, 0x03] = .ok (.frameNack 0x10, [])

/-- Rule R140 ("the receiver never refuses, stalls on, or queues a byte"), of the decoder: a stream with a byte in it always
decodes, to an operation on the wire whose encoding is the part of the stream it takes. The decoder, which takes a whole frame where
one stands complete, is the model's own form of the fetch (log entry 2). -/
def Obligations.EveryByteOfTheStreamDecodes : Prop :=
  ∀ (v : View) (bs : List Byte), bs ≠ [] →
    ∃ (i : Instr) (used rest : List Byte), decode v bs = .ok (i, rest) ∧ bs = used ++ rest ∧ used ≠ [] ∧ encode v.cfg i = some used

/-- 20_memory.md sections 1 and 5: a frame fetched whole does what its bytes do, fed one FEED step at a time. The fetch of whole
frames and the frame rows as their bytes fed are the model's own choices (log entries 2 and 6). -/
def Obligations.AFetchedFrameDoesWhatItsBytesDo : Prop :=
  ∀ (s : State) (bs : List Byte) (i : Instr) (rest : List Byte), decode s.view bs = .ok (i, rest) →
    ∃ (used : List Byte) (t : State), bs = used ++ rest ∧ runAll (used.map .feed) s = .next t ∧ exec i s = .next t

/-! ## The step -/

/-- Rules R21, R71, R107 and R200 as the model carries them (log entries 2 and 17): what the front of the schedule decodes to runs; an
operation that is enabled runs; one that is not enabled waits and the next one runs; where nothing scheduled is enabled, the
sequencer takes its own next step, with a free answer of the transport in SW.TX, and nothing changes if no exchange is in progress. -/
def Obligations.StepRunsTheScheduledOperation : Prop :=
  (∀ (s : State) (bs more : List Byte) (rest : List Input) (i : Instr), s.schedule = .bytes bs :: rest →
    decode s.view bs = .ok (i, more) →
    step s = exec i { s with schedule := if more = [] then rest else .bytes more :: rest }) ∧
  (∀ (s : State) (rest : List Input) (i : Instr), s.schedule = .op i :: rest → isOwnStep i = true → enabled s i = true →
    step s = exec i { s with schedule := rest }) ∧
  (∀ (s : State) (rest : List Input) (i j : Instr), s.schedule = .op i :: .op j :: rest →
    (isOwnStep i && enabled s i) = false → isOwnStep j = true → enabled s j = true →
    step s = exec j { s with schedule := .op i :: rest }) ∧
  (∀ s : State, (∀ x ∈ s.schedule, ∃ i, x = .op i ∧ (isOwnStep i && enabled s i) = false) →
    step s = match s.co.stage with
      | .idle => .next s
      | .locked => exec .swPop s
      | .populated => exec (.swTx (Config.writeResult s.choices)) { s with choices := s.choices + 1 }
      | .wait => if s.sig = true then exec .swWake s else exec .swTimeout s
      | .exit => exec .swExit s) ∧
  ∀ (s : State) (nbits w : Nat) (i : Instr) (more : List Byte), decode s.view (tableBytes nbits w) = .ok (i, more) →
    step (s.withFetchWord nbits w) = exec i { s with schedule := if more = [] then s.schedule else .bytes more :: s.schedule }

/-- 30_encoding.md section 4, 43_correlator.md sections 1 and 2 (with the ranges of SW.ACQ), 42_router.md, 20_memory.md section 3
(HOST.READ), 40_codec.md section 2 (ENCODE), 44_environment.md (`log`): an operation answers a next state exactly when it is
enabled, for every operation of the table and every state. Four parts are the model's own choices: a frame row runs in every
receiver state (log entry 6); DISPATCH and its arms run at `AWAIT_TERM` without a byte, and the events in every state (log entry
16); the two pseudo-operations complete under every plan, since a move that is not enabled is dropped and the operation ends its own
wait (log entry 8); what is not enabled is refused, and a read outside `ANS` is a fault (log entry 10). -/
def Obligations.OperationsCompleteExactlyWhenEnabled : Prop :=
  ∀ (i : Instr) (s : State), (∃ t, exec i s = .next t) ↔ enabled s i = true

/-- A step never stops. Of errors this is 60_exceptions.md section 4 ("none are fatal to the process"). Of the rest of the machine it
is the model's own choice: a step passes over an operation that is not enabled, takes the sequencer's own step if none is, and changes
nothing if there is no exchange either (log entries 2 and 17), so it never meets what `exec` refuses or faults on (log entry 10). -/
def Obligations.StepNeverStops : Prop :=
  ∀ s : State, ∃ t, step s = .next t

/-- 10_state.md section 7, which the spec derives: every step keeps the invariant, from every state that has it. -/
def Obligations.StepKeepsTheInvariant : Prop :=
  ∀ s t : State, Inv s → step s = .next t → Inv t

/-- 10_state.md section 7: power-on has the invariant, for every configuration that meets rule R7, and so has the reset state, whose
configuration `T` is the model's own choice (log entry 1). -/
def Obligations.ResetHasTheInvariant : Prop :=
  (∀ cfg : Config, cfg.wf = true → Inv (State.powerOn cfg)) ∧ Inv State.reset

/-! ## The receiver -/

/-- Rule R140: FEED is always enabled and is the arm that `rx.state` selects; an arm that is not selected is no step. -/
def Obligations.FeedIsTheSelectedArm : Prop :=
  ∀ (b : Byte) (s : State), (∃ t, exec (.feed b) s = .next t) ∧
    ∀ p ∈ [(RxState.idle, Instr.rxIdle b), (.awaitCmd, .rxCmd b), (.awaitLenLo, .rxLenLo b), (.awaitLenHi, .rxLenHi b),
      (.awaitData, .rxData b), (.awaitCsum, .rxCsum b), (.awaitTerm, .rxTerm b)],
      (s.rx.state = p.1 → exec p.2 s = exec (.feed b) s) ∧ (s.rx.state ≠ p.1 → ∀ t, exec p.2 s ≠ .next t)

/-- Rules R141 and R103: in `IDLE` the start marker reinitialises the Receive Context and every other byte changes nothing, logs
nothing and sends nothing, however many such bytes there are. -/
def Obligations.IdleActsOnTheStartMarkerOnly : Prop :=
  (∀ (b : Byte) (s : State), s.rx.state = .idle →
    exec (.rxIdle b) s = .next (if b = s.cfg.sof then
      { s with rx := { state := .awaitCmd, command := 0, type := .none, target := .none, capacity := 0, length := 0,
                       counter := 0, csum := s.cfg.sof } }
      else s)) ∧
  ∀ (s : State) (bs : List Byte), s.rx.state = .idle → s.cfg.sof ∉ bs → runAll (bs.map .feed) s = .next s

/-- Rule R144: the tests are made in the order pending command, `CMD_RECEIVE`, `CMD_INVALID`, and the first that holds decides. -/
def Obligations.ClassificationOrder : Prop :=
  ∀ (b : Byte) (s : State), s.rx.state = .awaitCmd → ∃ t, exec (.rxCmd b) s = .next t ∧
    (s.pend.active = true ∧ b = s.pend.command → t.rx.type = .answer ∧ t.rx.state = .awaitLenLo) ∧
    (¬(s.pend.active = true ∧ b = s.pend.command) ∧ b = s.cfg.cmdReceive → t.rx.type = .receive ∧ t.rx.state = .awaitLenLo) ∧
    (¬(s.pend.active = true ∧ b = s.pend.command) ∧ b ≠ s.cfg.cmdReceive ∧ b = s.cfg.cmdInvalid →
      t.rx.type = .invalid ∧ t.rx.state = .awaitLenLo) ∧
    (¬(s.pend.active = true ∧ b = s.pend.command) ∧ b ≠ s.cfg.cmdReceive ∧ b ≠ s.cfg.cmdInvalid →
      t.outputs = s.outputs ++ [.log .unknownCommand] ∧ t.rx.state = .idle)

/-- 41_receiver.md section 2, RX.CMD, whole. The value recorded at recognition is the spec's own decision D10, the copied target
and capacity its decision D13. -/
def Obligations.CommandByteEffect : Prop :=
  ∀ (b : Byte) (s : State), s.rx.state = .awaitCmd →
    exec (.rxCmd b) s = .next
      (if s.pend.active = true ∧ b = s.pend.command then
        { s with
          rx := { s.rx with state := .awaitLenLo, command := b, csum := s.rx.csum + b, type := .answer, target := .ans,
                            capacity := s.pend.answerCapacity }
          pend := { s.pend with answerSequence := s.pend.sendSequence } }
      else if b = s.cfg.cmdReceive then
        { s with rx := { s.rx with state := .awaitLenLo, command := b, csum := s.rx.csum + b, type := .receive,
                                   target := .rxbuf, capacity := s.cfg.rxbufCap } }
      else if b = s.cfg.cmdInvalid then
        { s with rx := { s.rx with state := .awaitLenLo, command := b, csum := s.rx.csum + b, type := .invalid,
                                   target := .none, capacity := 0 } }
      else
        { s with
          rx := { s.rx with state := .idle, command := b, csum := s.rx.csum + b }
          outputs := s.outputs ++ [.log .unknownCommand] })

/-- Rule R145: RX.LENLO replaces bits 7 to 0 of the length, folds the byte and advances; no value of the byte is checked. -/
def Obligations.LengthLowByteEffect : Prop :=
  ∀ (b : Byte) (s : State), s.rx.state = .awaitLenLo →
    exec (.rxLenLo b) s = .next { s with rx := { s.rx with
      length := BitVec.ofNat 16 (s.rx.length.toNat / 256 * 256 + b.toNat), csum := s.rx.csum + b, state := .awaitLenHi } }

/-- 41_receiver.md section 2, RX.LENHI, whole. The index of the bound is the spec's own decision D34, the path of a zero length its
decision D11. -/
def Obligations.LengthHighByteEffect : Prop :=
  ∀ (b : Byte) (s : State) (n : Half), s.rx.state = .awaitLenHi → n = BitVec.ofNat 16 (b.toNat * 256 + s.rx.length.toNat % 256) →
    exec (.rxLenHi b) s = .next
      (if s.cfg.maxLen s.rx.command < n then
        { s with
          rx := { s.rx with length := n, csum := s.rx.csum + b, state := .idle }
          outputs := s.outputs ++ [.log .lengthOverflow] }
      else { s with rx := { s.rx with length := n, csum := s.rx.csum + b, state := if n = 0 then .awaitCsum else .awaitData } })

/-- Rule R149: RX.DATA folds the byte, stores it at the payload index if that is below the capacity, counts it, and leaves
`AWAIT_DATA` at the last byte; nothing else changes. -/
def Obligations.PayloadByteEffect : Prop :=
  ∀ (b : Byte) (s : State), Inv s → s.rx.state = .awaitData → ∃ t, exec (.rxData b) s = .next t ∧
    t = { s with
      rx := { s.rx with csum := s.rx.csum + b, counter := s.rx.counter + 1,
                        state := if s.rx.counter + 1 = s.rx.length then .awaitCsum else .awaitData }
      ans := t.ans
      rxbuf := t.rxbuf } ∧
    (∀ k, t.readAns k =
      if s.rx.counter < s.rx.capacity ∧ s.rx.target = .ans ∧ k = s.rx.counter.toNat then b else s.readAns k) ∧
    (∀ k, t.readRxbuf k =
      if s.rx.counter < s.rx.capacity ∧ s.rx.target = .rxbuf ∧ k = s.rx.counter.toNat then b else s.readRxbuf k)

/-- Rules R151 and R243: a matching checksum byte advances, any other logs, writes the negative acknowledge of the frame's command
and returns to `IDLE`; memory and the Pending Command are as before. -/
def Obligations.ChecksumByteEffect : Prop :=
  ∀ (b : Byte) (s : State), s.rx.state = .awaitCsum →
    exec (.rxCsum b) s = .next
      (if b = s.rx.csum then { s with rx := { s.rx with state := .awaitTerm } }
      else
        { s with
          rx := { s.rx with state := .idle }
          outputs := s.outputs ++
            [.log .checksumMismatch,
             .write [s.cfg.sof, s.rx.command, 0x01, 0x00, 0x01, s.cfg.sof + s.rx.command + 2, s.cfg.eof]] })

/-- 41_receiver.md section 2 (rule R153) and 60_exceptions.md section 1 (rule R244): a matching terminator dispatches and returns to `IDLE` in one step; any other byte logs, dispatches
nothing and returns to `IDLE`. That DISPATCH alone is an operation of `exec` that leaves `rx.state` is the model's own choice (log
entry 16); what it changes is the dispatch of the rules. -/
def Obligations.TerminatorByteEffect : Prop :=
  ∀ (b : Byte) (s : State), s.rx.state = .awaitTerm →
    (b = s.cfg.eof → s.rx.type ≠ .none →
      ∃ u, exec .dispatch s = .next u ∧ exec (.rxTerm b) s = .next { u with rx := { s.rx with state := .idle } }) ∧
    (b ≠ s.cfg.eof → exec (.rxTerm b) s =
      .next { s with rx := { s.rx with state := .idle }, outputs := s.outputs ++ [.log .terminatorMismatch] })

/-- Rule R154: the transition table of `rx.state`. -/
def Obligations.ReceiverTransitionTable : Prop :=
  ∀ (b : Byte) (s : State), ∃ t, exec (.feed b) s = .next t ∧ t.rx.state =
    match s.rx.state with
    | .idle => if b = s.cfg.sof then .awaitCmd else .idle
    | .awaitCmd =>
      if (s.pend.active = true ∧ b = s.pend.command) ∨ b = s.cfg.cmdReceive ∨ b = s.cfg.cmdInvalid then .awaitLenLo else .idle
    | .awaitLenLo => .awaitLenHi
    | .awaitLenHi =>
      if (s.cfg.maxLen s.rx.command).toNat < b.toNat * 256 + s.rx.length.toNat % 256 then .idle
      else if b.toNat * 256 + s.rx.length.toNat % 256 = 0 then .awaitCsum else .awaitData
    | .awaitData => if s.rx.counter + 1 = s.rx.length then .awaitCsum else .awaitData
    | .awaitCsum => if b = s.rx.csum then .awaitTerm else .idle
    | .awaitTerm => .idle

/-- 60_exceptions.md sections 3 and 4, which the spec derives: a FEED step logs at most one error, of a receiver-side kind, and is
then back in `IDLE`; in `IDLE` no error can be raised; outputs are only ever appended. -/
def Obligations.AtMostOneErrorPerByte : Prop :=
  ∀ (b : Byte) (s : State), ∃ (t : State) (added : List Output), exec (.feed b) s = .next t ∧ t.outputs = s.outputs ++ added ∧
    (added.filter (fun o => match o with | .log _ => true | _ => false)).length ≤ 1 ∧
    (∀ k, .log k ∈ added → t.rx.state = .idle ∧ k.isLogged = true ∧ s.rx.state ≠ .idle)

/-- 40_codec.md section 1 (rule R124, which the spec derives): after the header and a part `q` of the payload, the running checksum
is CSUM8 of the bytes fed. -/
def Obligations.RunningChecksumIsCsum : Prop :=
  ∀ (s : State) (c : Byte) (n : Nat) (q : List Byte), s.rx.state = .idle → classify s.cfg s.awaited c ≠ .none →
    n ≤ (s.cfg.maxLen c).toNat → q.length ≤ n →
    ∃ t, runAll ((frameHeader s.cfg c n ++ q).map .feed) s = .next t ∧ t.rx.csum = csum8 (frameHeader s.cfg c n ++ q) ∧
      t.rx.counter.toNat = q.length ∧ t.rx.length.toNat = n ∧ t.rx.state = (if q.length = n then .awaitCsum else .awaitData)

/-- 40_codec.md section 1 (rule R125, which the spec derives): with the header intact, exactly one payload byte changed, or exactly
the checksum byte changed, is always caught: the frame ends at its checksum byte with the log entry and the negative acknowledge, in
`IDLE`, and nothing is dispatched. -/
def Obligations.AChangedPayloadByteIsAlwaysCaught : Prop :=
  ∀ (s : State) (c : Byte) (p q : List Byte) (k : Byte), s.rx.state = .idle → classify s.cfg s.awaited c ≠ .none →
    p.length ≤ (s.cfg.maxLen c).toNat →
    ((∃ (before after : List Byte) (x y : Byte), p = before ++ x :: after ∧ q = before ++ y :: after ∧ x ≠ y) ∧
        k = csum8 (frameBody s.cfg c p) ∨
      q = p ∧ k ≠ csum8 (frameBody s.cfg c p)) →
    ∃ t, runAll ((frameHeader s.cfg c p.length ++ q ++ [k]).map .feed) s = .next t ∧
      t.rx.state = .idle ∧
      t.outputs = s.outputs ++ [.log .checksumMismatch, .write (encodeAckFrame s.cfg c false)] ∧
      t.sig = s.sig ∧ t.pend.answerLength = s.pend.answerLength

/-! ## The frame rows -/

/-- 30_encoding.md section 5 ("one FEED step per byte of the frame"): a frame row from the peer is its bytes fed in order, in every
state, and always completes; a payload the length field cannot hold is refused (log entries 6 and 10). -/
def Obligations.FrameRowsAreTheirBytesFed : Prop :=
  ∀ s : State,
    (∀ (c : Byte) (p : List Byte), p.length ≤ 65535 →
      ∃ t, exec (.frameAnswer c p) s = .next t ∧ runAll ((encodeFrame s.cfg c p).map .feed) s = .next t) ∧
    (∀ p : List Byte, p.length ≤ 65535 →
      ∃ t, exec (.frameReceive p) s = .next t ∧ runAll ((encodeFrame s.cfg s.cfg.cmdReceive p).map .feed) s = .next t) ∧
    (∀ p : List Byte, p.length ≤ 65535 →
      ∃ t, exec (.frameInvalid p) s = .next t ∧ runAll ((encodeFrame s.cfg s.cfg.cmdInvalid p).map .feed) s = .next t) ∧
    (∀ c : Byte, ∃ t, exec (.frameUnknown c) s = .next t ∧ runAll ([s.cfg.sof, c].map .feed) s = .next t) ∧
    (∀ c : Byte, ∃ t, exec (.frameAck c) s = .next t ∧ runAll ((encodeFrame s.cfg c [0x00]).map .feed) s = .next t) ∧
    (∀ (c : Byte) (p : List Byte), 65535 < p.length → exec (.frameAnswer c p) s = .refused .payloadTooLong ∧
      exec (.frameReceive p) s = .refused .payloadTooLong ∧ exec (.frameInvalid p) s = .refused .payloadTooLong)

/-- 40_codec.md section 3, 41_receiver.md section 2, 42_router.md: an answer frame for the awaited command, received from `IDLE`,
records the declared length and raises the signal, leaves its payload in `ANS` up to the capacity, and changes nothing else. The
recorded sequence and length are the spec's own decisions D10 and D16; that the row is its bytes with no other step between them is
the model's own choice (log entry 6). -/
def Obligations.AnswerFrameReachesTheWaiter : Prop :=
  ∀ (s : State) (c : Byte) (p : List Byte), Inv s → s.rx.state = .idle → s.awaited = some c →
    p.length ≤ (s.cfg.maxLen c).toNat →
    ∃ t, exec (.frameAnswer c p) s = .next t ∧ t.rx.state = .idle ∧
      t = { s with
        rx := t.rx
        pend := { s.pend with answerSequence := s.pend.sendSequence, answerLength := BitVec.ofNat 16 p.length }
        sig := true
        outputs := s.outputs ++ [.raiseSignal]
        ans := t.ans } ∧
      ∀ k, t.readAns k = if k < min p.length s.pend.answerCapacity.toNat then p.getD k 0 else s.readAns k

/-- 40_codec.md section 3, 42_router.md (rules R127, R173): an unsolicited frame received from `IDLE` is delivered with its declared
length and its payload up to `RXBUF_CAP`, and touches nothing of the exchange in progress. The payload is exact where `RXBUF_CAP` is
not below the frame's maximum, as in the decided 300; the configuration leaves it free (log entry 11). Where the receive code itself
is awaited the frame is an answer, and the answer statement speaks of it. The row is its bytes fed (log entry 6). -/
def Obligations.ReceiveFrameIsDelivered : Prop :=
  ∀ (s : State) (p : List Byte), Inv s → s.rx.state = .idle → s.awaited ≠ some s.cfg.cmdReceive →
    p.length ≤ (s.cfg.maxLen s.cfg.cmdReceive).toNat →
    ∃ t, exec (.frameReceive p) s = .next t ∧ t.rx.state = .idle ∧
      t = { s with
        rx := t.rx
        outputs := s.outputs ++ [.onReceive (p.take s.cfg.rxbufCap.toNat) (BitVec.ofNat 16 p.length)]
        rxbuf := t.rxbuf } ∧
      ∀ k, t.readRxbuf k = if k < min p.length s.cfg.rxbufCap.toNat then p.getD k 0 else s.readRxbuf k

/-- 42_router.md (the spec's own decision D17): an "invalid command" frame received from `IDLE` completes the exchange in progress
with length 0, or leaves a latched signal if there is none; its payload goes nowhere. The row is its bytes fed (log entry 6). -/
def Obligations.InvalidFrameCompletesWithLengthZero : Prop :=
  ∀ (s : State) (p : List Byte), s.rx.state = .idle → s.awaited ≠ some s.cfg.cmdInvalid →
    s.cfg.cmdInvalid ≠ s.cfg.cmdReceive → p.length ≤ (s.cfg.maxLen s.cfg.cmdInvalid).toNat →
    ∃ t, exec (.frameInvalid p) s = .next t ∧ t.rx.state = .idle ∧
      t = { s with
        rx := t.rx
        pend := { s.pend with
          answerSequence := if s.pend.active then s.pend.sendSequence else s.pend.answerSequence
          answerLength := 0 }
        sig := true
        outputs := s.outputs ++ [.raiseSignal] }

/-- 30_encoding.md section 3 (rule R102) and 60_exceptions.md section 1 (rule R241): a frame whose code is not pending, not
`CMD_RECEIVE` and not `CMD_INVALID` is abandoned at its command byte: one log entry, nothing sent, `IDLE`. That the row is its two
bytes with no other step between them is the model's own choice (log entry 6). -/
def Obligations.UnknownFrameIsAbandoned : Prop :=
  ∀ (s : State) (c : Byte), s.rx.state = .idle → ¬(s.pend.active = true ∧ c = s.pend.command) → c ≠ s.cfg.cmdReceive →
    c ≠ s.cfg.cmdInvalid →
    exec (.frameUnknown c) s = .next { s with
      rx := { state := .idle, command := c, type := .none, target := .none, capacity := 0, length := 0, counter := 0,
              csum := s.cfg.sof + c }
      outputs := s.outputs ++ [.log .unknownCommand] }

/-- 30_encoding.md section 2, 41_receiver.md section 2 (rules R142, R143 and R149) and 42_router.md (rule R171): an acknowledge-success
frame for the awaited command is delivered as a one-byte answer `00`, dropped at a capacity of 0 but counted. The recorded sequence
is the spec's own decision D10, the recorded length its decision D16; the row is its bytes fed (log entry 6). -/
def Obligations.AckFrameIsAOneByteAnswer : Prop :=
  ∀ (s : State) (c : Byte), Inv s → s.rx.state = .idle → s.awaited = some c → 1 ≤ (s.cfg.maxLen c).toNat →
    ∃ t, exec (.frameAck c) s = .next t ∧
      (∀ k, t.readAns k = if k = 0 ∧ 1 ≤ s.pend.answerCapacity.toNat then 0x00 else s.readAns k) ∧
      t.rx.state = .idle ∧
      t = { s with
        rx := t.rx
        pend := { s.pend with answerSequence := s.pend.sendSequence, answerLength := 1 }
        sig := true
        outputs := s.outputs ++ [.raiseSignal]
        ans := t.ans }

/-- 30_encoding.md sections 1 and 2, 20_memory.md section 5: a frame to the peer is one whole `write` and changes nothing else, in
every state. That a row sent to the peer stands for its one `write` is the model's own choice (log entry 7). -/
def Obligations.SentFrameRowsAreOneWrite : Prop :=
  ∀ s : State,
    (∀ (c : Byte) (p body : List Byte), p.length ≤ 65535 →
      body = [s.cfg.sof, c, BitVec.ofNat 8 (p.length % 256), BitVec.ofNat 8 (p.length / 256)] ++ p →
      exec (.frameCommand c p) s = .next { s with outputs := s.outputs ++ [.write (body ++ [csum8 body, s.cfg.eof])] }) ∧
    (∀ (c : Byte) (p : List Byte), 65535 < p.length → exec (.frameCommand c p) s = .refused .payloadTooLong) ∧
    exec .cmdVersion s =
      .next { s with outputs := s.outputs ++ [.write [s.cfg.sof, 0x3A, 0x00, 0x00, s.cfg.sof + 0x3A, s.cfg.eof]] } ∧
    ∀ c : Byte, exec (.frameNack c) s =
      .next { s with outputs := s.outputs ++ [.write [s.cfg.sof, c, 0x01, 0x00, 0x01, s.cfg.sof + c + 2, s.cfg.eof]] }

/-! ## The router -/

/-- 42_router.md, DISPATCH (rule R170): at the terminator it is the arm that `rx.type` selects, elsewhere it is no step, and `T_NONE`
selects no arm; it happens inside the step of the byte `EOF` at `AWAIT_TERM`, and the step of any other byte, or in any other
receiver state, dispatches nothing. That DISPATCH and its arms are operations of `exec`, enabled at `AWAIT_TERM` without a byte, and
that a step of the machine never takes one alone, is the model's own form of this (log entry 16, DESIGN CHOICE). -/
def Obligations.DispatchIsTheArmOfTheType : Prop :=
  ∀ s : State,
    (s.rx.state = .awaitTerm →
      (s.rx.type = .answer → exec .dispatch s = exec .dispAnswer s) ∧
      (s.rx.type = .invalid → exec .dispatch s = exec .dispInvalid s) ∧
      (s.rx.type = .receive → exec .dispatch s = exec .dispReceive s) ∧
      (s.rx.type ≠ .none → ∃ u, exec .dispatch s = .next u ∧
        exec (.feed s.cfg.eof) s = .next { u with rx := { s.rx with state := .idle } }) ∧
      (s.rx.type = .none → ∀ t, exec .dispatch s ≠ .next t)) ∧
    (s.rx.state ≠ .awaitTerm → ∀ i ∈ [Instr.dispatch, .dispAnswer, .dispInvalid, .dispReceive], ∀ t, exec i s ≠ .next t) ∧
    (∀ b : Byte, ¬(s.rx.state = .awaitTerm ∧ b = s.cfg.eof) → ∃ (t : State) (added : List Output),
      exec (.feed b) s = .next t ∧ t.outputs = s.outputs ++ added ∧ t.sig = s.sig ∧ t.pend.answerLength = s.pend.answerLength ∧
      .raiseSignal ∉ added ∧ .log .staleAnswer ∉ added ∧ ∀ bytes n, .onReceive bytes n ∉ added) ∧
    ∀ i ∈ [Instr.dispatch, .dispAnswer, .dispInvalid, .dispReceive], isOwnStep i = false

/-- 42_router.md, DISP.ANSWER (rules R171 and R245): an answer whose sequences agree records its declared length and raises the signal; a stale one is logged
and changes nothing else. The operation is taken at `AWAIT_TERM` without its byte, the model's own form of it (log entry 16). -/
def Obligations.DispatchOfAnAnswer : Prop :=
  ∀ s : State, s.rx.state = .awaitTerm → s.rx.type = .answer →
    exec .dispAnswer s = .next
      (if s.pend.answerSequence = s.pend.sendSequence then
        { s with pend := { s.pend with answerLength := s.rx.length }, sig := true, outputs := s.outputs ++ [.raiseSignal] }
      else { s with outputs := s.outputs ++ [.log .staleAnswer] })

/-- 42_router.md, DISP.INVALID (the spec's own decision D17), taken at `AWAIT_TERM` without its byte (log entry 16). -/
def Obligations.DispatchOfAnInvalid : Prop :=
  ∀ s : State, s.rx.state = .awaitTerm → s.rx.type = .invalid →
    exec .dispInvalid s = .next { s with
      pend := { s.pend with
        answerSequence := if s.pend.active = true then s.pend.sendSequence else s.pend.answerSequence
        answerLength := 0 }
      sig := true
      outputs := s.outputs ++ [.raiseSignal] }

/-- 42_router.md, DISP.RECEIVE (rule R173): the first `min(length, capacity)` bytes of `RXBUF` are delivered with the declared length; nothing else changes, the
signal and the Pending Command among it. The operation is taken at `AWAIT_TERM` without its byte (log entry 16). -/
def Obligations.DispatchOfAReceive : Prop :=
  ∀ s : State, s.rx.state = .awaitTerm → s.rx.type = .receive →
    exec .dispReceive s = .next { s with
      outputs := s.outputs ++
        [.onReceive ((List.range (min s.rx.length.toNat s.rx.capacity.toNat)).map s.readRxbuf) s.rx.length] }

/-! ## The correlator -/

/-- 43_correlator.md section 1, SW.ACQ (the spec's own decisions D19 and D31): what it does, when it is enabled, and that a request
out of range or a second caller is not taken (under names of the model's own: log entry 10). -/
def Obligations.AcquireEffect : Prop :=
  ∀ (s : State) (c : Byte) (p : List Byte) (cap : Half) (ack : Bool),
    (p.length ≤ 65535 → cap ≤ s.cfg.ansMax → s.co.stage = .idle → s.lock = false →
      exec (.swAcq c p cap ack) s = .next { s with
        lock := true
        rq := { command := c, payload := p, capacity := cap, ack := ack }
        co := { s.co with stage := .locked } }) ∧
    (p.length ≤ 65535 → cap ≤ s.cfg.ansMax → s.lock = true → exec (.swAcq c p cap ack) s = .refused .lockHeld) ∧
    (65535 < p.length ∨ s.cfg.ansMax < cap → exec (.swAcq c p cap ack) s = .refused .requestOutOfRange)

/-- Rule R187: SW.POP. -/
def Obligations.PopulateEffect : Prop :=
  ∀ s : State, s.co.stage = .locked →
    exec .swPop s = .next { s with
      pend := { s.pend with active := true, command := s.rq.command, answerCapacity := s.rq.capacity, answerLength := 0 }
      co := { s.co with stage := .populated } }

/-- 43_correlator.md section 1, SW.TX: the frame of the latched request is written; the exchange waits, or on failure skips the wait
(that the exit still follows is the spec's own decision D20). -/
def Obligations.TransmitEffect : Prop :=
  ∀ (s : State) (ok : Bool) (body : List Byte), s.co.stage = .populated → s.rq.payload.length ≤ 65535 →
    body = [s.cfg.sof, s.rq.command, BitVec.ofNat 8 (s.rq.payload.length % 256), BitVec.ofNat 8 (s.rq.payload.length / 256)]
      ++ s.rq.payload →
    exec (.swTx ok) s = .next { s with
      co := if ok then { s.co with stage := .wait } else { stage := .exit, result := .fail }
      outputs := s.outputs ++ [.write (body ++ [csum8 body, s.cfg.eof])] }

/-- 43_correlator.md section 1, SW.WAKE and SW.SPURIOUS (the spec's own decision D18): the sequences alone are compared; a wake
consumes the signal and needs one, a spurious wake does neither. The name of the refusal is the model's (log entry 10). -/
def Obligations.WakeEffect : Prop :=
  ∀ s : State, s.co.stage = .wait →
    (s.sig = true → exec .swWake s = .next { s with
      sig := false
      co := if s.pend.answerSequence = s.pend.sendSequence then { stage := .exit, result := .ok } else s.co }) ∧
    (s.sig = false → exec .swWake s = .refused .noSignal) ∧
    exec .swSpurious s = .next { s with
      co := if s.pend.answerSequence = s.pend.sendSequence then { stage := .exit, result := .ok } else s.co }

/-- 43_correlator.md section 1, SW.TIMEOUT (the spec's own decisions D18 and D22): a failure whatever the sequences say; a latched
signal beats it (log entry 10 for the name of the refusal). -/
def Obligations.TimeoutEffect : Prop :=
  ∀ s : State, s.co.stage = .wait →
    (s.sig = false → exec .swTimeout s = .next { s with co := { stage := .exit, result := .fail } }) ∧
    (s.sig = true → exec .swTimeout s = .refused .signalLatched)

/-- 43_correlator.md section 1, SW.EXIT and the return (the spec's own decisions D20, D21, D28 and D38): the sequence advances modulo
`2^32`, the Pending Command is cleared but for its answer sequence, the lock is free, and the caller gets status and length. -/
def Obligations.ExitEffect : Prop :=
  ∀ (s : State) (st : Status), s.co.stage = .exit →
    st = (if s.rq.ack = true ∧ s.co.result = .ok ∧ s.readAns 0 ≠ 0x00 then .fail else s.co.result) →
    exec .swExit s = .next { s with
      pend := { active := false, command := 0, sendSequence := BitVec.ofNat 32 (s.pend.sendSequence.toNat + 1),
                answerSequence := s.pend.answerSequence, answerCapacity := 0, answerLength := 0 }
      lock := false
      co := { s.co with stage := .idle }
      outputs := s.outputs ++ [.ret st s.pend.answerLength] }

/-- 43_correlator.md section 2, the table (the spec's own decision D21): a step of the sequencer in another stage than its own is no
step, and an operation that changes the stage does so by one row of the table. The two pseudo-operations end in the stage they begin
in, and RESET is no row of the table. The name of the refusal is the model's (log entry 10). -/
def Obligations.StageTransitionTable : Prop :=
  (∀ s : State,
    (s.co.stage ≠ .locked → exec .swPop s = .refused .stageNotReached) ∧
    (∀ ok, s.co.stage ≠ .populated → exec (.swTx ok) s = .refused .stageNotReached) ∧
    (s.co.stage ≠ .wait → exec .swWake s = .refused .stageNotReached ∧ exec .swSpurious s = .refused .stageNotReached ∧
      exec .swTimeout s = .refused .stageNotReached) ∧
    (s.co.stage ≠ .exit → exec .swExit s = .refused .stageNotReached)) ∧
  ∀ (i : Instr) (s t : State), exec i s = .next t → i ≠ .reset → t.co.stage ≠ s.co.stage →
    (s.co.stage = .idle ∧ t.co.stage = .locked) ∨ (s.co.stage = .locked ∧ t.co.stage = .populated) ∨
    (s.co.stage = .populated ∧ t.co.stage = .wait) ∨ (s.co.stage = .populated ∧ t.co.stage = .exit) ∨
    (s.co.stage = .wait ∧ t.co.stage = .exit) ∨ (s.co.stage = .exit ∧ t.co.stage = .idle)

/-- Rule R197: while one exchange holds the lock no other begins, whatever its arguments; short of a reset only SW.ACQ, the only way
in, takes the lock, and only the exit of the exchange frees it. A pseudo-operation takes the lock in its own SW.ACQ and frees it in
its own SW.EXIT, so it begins and ends with the lock free. -/
def Obligations.OneExchangeAtATime : Prop :=
  (∀ (s : State) (c : Byte) (p : List Byte) (cap : Half) (ack : Bool) (plan : ExchangePlan), s.lock = true →
    enabled s (.swAcq c p cap ack) = false ∧ (∀ t, exec (.swAcq c p cap ack) s ≠ .next t) ∧
    (∀ t, exec (.sendAndWait c p cap plan) s ≠ .next t) ∧ (∀ t, exec (.sendAndWaitAck c p plan) s ≠ .next t)) ∧
  ∀ (i : Instr) (s t : State), exec i s = .next t → i ≠ .reset →
    (s.lock = true → t.lock = false → i = .swExit) ∧
    (s.lock = false → t.lock = true → ∃ c p cap ack, i = .swAcq c p cap ack)

/-- 30_encoding.md section 5, 43_correlator.md section 1 (the spec's own decision D21): a pseudo-operation is the sequence of its
steps, with the feeder's steps where the plan puts them and every step enabled when it is taken. The plan as an operand, and how the
wait ends when the plan's moves are over, are the model's own choices (log entry 8). -/
def Obligations.PseudoOperationsAreTheirSteps : Prop :=
  ∀ (s : State) (c : Byte) (p : List Byte) (cap : Half) (plan : ExchangePlan), s.co.stage = .idle → s.lock = false →
    p.length ≤ 65535 →
    (cap ≤ s.cfg.ansMax → ∃ (waits : List Instr) (t : State),
      (∀ w ∈ waits, (∃ b, w = .feed b) ∨ w = .swWake ∨ w = .swSpurious ∨ w = .swTimeout) ∧
      exec (.sendAndWait c p cap plan) s = .next t ∧
      runAll ([.swAcq c p cap false] ++ plan.afterAcq.map .feed ++ [.swPop] ++ plan.afterPop.map .feed
        ++ [.swTx plan.ok] ++ waits ++ [.swExit]) s = .next t) ∧
    (1 ≤ s.cfg.ansMax → ∃ (waits : List Instr) (t : State),
      (∀ w ∈ waits, (∃ b, w = .feed b) ∨ w = .swWake ∨ w = .swSpurious ∨ w = .swTimeout) ∧
      exec (.sendAndWaitAck c p plan) s = .next t ∧
      runAll ([.swAcq c p 1 true] ++ plan.afterAcq.map .feed ++ [.swPop] ++ plan.afterPop.map .feed
        ++ [.swTx plan.ok] ++ waits ++ [.swExit]) s = .next t)

/-- 43_correlator.md sections 1 and 2 (rule R200; the spec's own decisions D20, D21 and D33): every exchange ends. (1) A
pseudo-operation, whatever its plan: one return is the last output, the sequence has advanced by one, nothing is pending, the lock is
free; a failed write is a failure. The plan, and that the operation ends its own wait, are the model's own choices (log entry 8).
(2) An exchange in progress that is left alone ends within five steps of the machine, with its return. (3) Whatever is scheduled, a
bounded number of steps leads to a state in which no exchange is in progress and nothing scheduled can be taken. That the sequencer's
own step is taken where nothing scheduled is enabled is the model's form of the fairness (log entry 17). (4) In every run without end,
whatever the interleaving, in which the sequencer is weakly fair, an exchange in progress comes to its SW.EXIT, unless a reset
abandons it. -/
def Obligations.EveryExchangeReturns : Prop :=
  (∀ (s : State) (i : Instr) (c : Byte) (p : List Byte) (cap : Half) (plan : ExchangePlan), s.co.stage = .idle → s.lock = false →
    p.length ≤ 65535 → (i = .sendAndWait c p cap plan ∧ cap ≤ s.cfg.ansMax ∨ i = .sendAndWaitAck c p plan ∧ 1 ≤ s.cfg.ansMax) →
    ∃ (t : State) (events : List Output) (st : Status) (n : Half), exec i s = .next t ∧
      t.outputs = s.outputs ++ events ++ [.ret st n] ∧ (∀ st' n', .ret st' n' ∉ events) ∧
      t.co.stage = .idle ∧ t.lock = false ∧ t.pend.active = false ∧ t.pend.command = 0 ∧ t.pend.answerCapacity = 0 ∧
      t.pend.answerLength = 0 ∧ t.pend.sendSequence = s.pend.sendSequence + 1 ∧ (plan.ok = false → st = .fail)) ∧
  (∀ s : State, s.schedule = [] → s.co.stage ≠ .idle →
    ∃ (k : Nat) (t : State) (events : List Output) (st : Status) (n : Half), k ≤ 5 ∧ Host.Core.run Sys2Proof.core k s = .next t ∧
      t.outputs = s.outputs ++ events ++ [.ret st n] ∧ (∀ st' n', .ret st' n' ∉ events) ∧ t.co.stage = .idle ∧ t.lock = false ∧
      t.pend.active = false ∧ t.pend.sendSequence = s.pend.sendSequence + 1) ∧
  (∀ s : State, ∃ (k : Nat) (t : State), k ≤ 6 * scheduledSize s.schedule + 5 ∧ Host.Core.run Sys2Proof.core k s = .next t ∧
    t.co.stage = .idle ∧ step t = .next t) ∧
  ∀ (σ : Nat → State) (act : Nat → Instr) (n : Nat), IsRun σ act → WeaklyFair σ act → Inv (σ n) → (σ n).co.stage ≠ .idle →
    ∃ m, n ≤ m ∧ (act m = .swExit ∨ act m = .reset)

/-- 95_test_vectors.md E1, for every command, request and answer, in the one interleaving of E1: the answer arrives whole after a
successful SW.TX, then the wait wakes. The exchange returns `OK` with the answer's length, and its payload is in `ANS` up to the
capacity. The return of the length is the spec's own decision D22. The plan is the model's form of an interleaving (log entry 8);
under another one, such as a spurious wake inside the frame (rule R286), the return is another. -/
def Obligations.AnsweredExchangeReturnsTheAnswer : Prop :=
  ∀ (s : State) (c : Byte) (p a : List Byte) (cap : Half), Inv s → s.rx.state = .idle → s.co.stage = .idle → s.lock = false →
    p.length ≤ 65535 → cap ≤ s.cfg.ansMax → a.length ≤ (s.cfg.maxLen c).toNat →
    ∃ t, exec (.sendAndWait c p cap
        { afterAcq := [], afterPop := [], ok := true, moves := (encodeFrame s.cfg c a).map .feed ++ [.wake] }) s = .next t ∧
      t.outputs = s.outputs ++ [.write (encodeFrame s.cfg c p), .raiseSignal, .ret .ok (BitVec.ofNat 16 a.length)] ∧
      (∀ k, t.readAns k = if k < min a.length cap.toNat then a.getD k 0 else s.readAns k) ∧
      t.sig = false ∧ t.lock = false ∧ t.co.stage = .idle ∧ t.pend.sendSequence = s.pend.sendSequence + 1 ∧
      t.pend.answerSequence = s.pend.sendSequence ∧ t.rxbuf = s.rxbuf

/-- 43_correlator.md section 1, SEND_AND_WAIT_ACK (the spec's own decision D28), in one interleaving: answered with the one byte `x` by
a frame that arrives whole after a successful SW.TX, then one wake, the exchange returns `OK` exactly if `x` is the
acknowledge-success byte; both returns carry length 1. The plan is the model's form of an interleaving (log entry 8); under others
the return is another (rules R286 and R294). -/
def Obligations.AckExchangeJudgesTheByte : Prop :=
  ∀ (s : State) (c x : Byte) (p : List Byte), Inv s → s.rx.state = .idle → s.co.stage = .idle → s.lock = false →
    p.length ≤ 65535 → 1 ≤ s.cfg.ansMax → 1 ≤ (s.cfg.maxLen c).toNat →
    ∃ t, exec (.sendAndWaitAck c p
        { afterAcq := [], afterPop := [], ok := true, moves := (encodeFrame s.cfg c [x]).map .feed ++ [.wake] }) s = .next t ∧
      t.outputs = s.outputs ++
        [.write (encodeFrame s.cfg c p), .raiseSignal, .ret (if x = 0x00 then .ok else .fail) 1]

/-- 60_exceptions.md section 1 (rules R246 to R248), in the two interleavings that feed no byte: a write failure, and a timeout as the
first move of the wait, give the caller the same return, and leave the block in the same state. That a failed exchange still exits
is the spec's own decision D20. The plan is the model's form of an interleaving (log entry 8); where bytes arrive the length
returned with `FAIL` can be another (rule R296). -/
def Obligations.WriteFailureAndTimeoutReturnAlike : Prop :=
  ∀ (s : State) (c : Byte) (p : List Byte) (cap : Half) (ok : Bool), s.co.stage = .idle → s.lock = false → s.sig = false →
    p.length ≤ 65535 → cap ≤ s.cfg.ansMax →
    exec (.sendAndWait c p cap
        { afterAcq := [], afterPop := [], ok := ok, moves := if ok then [.timeout] else [] }) s = .next { s with
      pend := { active := false, command := 0, sendSequence := s.pend.sendSequence + 1,
                answerSequence := s.pend.answerSequence, answerCapacity := 0, answerLength := 0 }
      rq := { command := c, payload := p, capacity := cap, ack := false }
      co := { stage := .idle, result := .fail }
      outputs := s.outputs ++ [.write (encodeFrame s.cfg c p), .ret .fail 0] }

/-- 43_correlator.md section 2 (rule R198 case b, which the spec derives): an answer recognised during an exchange and dispatched
after its exit is stale: logged, no length, no signal. -/
def Obligations.AnswerDispatchedAfterTheExitIsStale : Prop :=
  ∀ s : State, s.co.stage = .exit → s.pend.answerSequence = s.pend.sendSequence → s.rx.state = .awaitTerm → s.rx.type = .answer →
    ∃ t u, exec .swExit s = .next t ∧ exec (.feed s.cfg.eof) t = .next u ∧ u.rx.state = .idle ∧
      u.outputs = t.outputs ++ [.log .staleAnswer] ∧ u.pend = t.pend ∧ u.sig = s.sig ∧ u.ans = s.ans

/-! ## Ownership, inputs and outputs -/

/-- 10_state.md section 7 (rule R46, the spec's own decisions D15 and D18) and 41_receiver.md section 3 (rule R156): what the
feeder's operations never write, the frame rows (log entry 6) and the dispatch operations (log entry 16) among them. -/
def Obligations.FeederWritesOnlyItsOwn : Prop :=
  ∀ (s t : State) (i : Instr) (b : Byte) (c : Byte) (p : List Byte),
    i ∈ [Instr.feed b, .rxIdle b, .rxCmd b, .rxLenLo b, .rxLenHi b, .rxData b, .rxCsum b, .rxTerm b, .frameAnswer c p,
      .frameReceive p, .frameInvalid p, .frameUnknown c, .frameAck c, .dispatch, .dispAnswer, .dispInvalid, .dispReceive] →
    exec i s = .next t →
    t.cfg = s.cfg ∧ t.co = s.co ∧ t.rq = s.rq ∧ t.lock = s.lock ∧ t.schedule = s.schedule ∧ t.epoch = s.epoch ∧ t.choices = s.choices ∧
    t.pend.active = s.pend.active ∧ t.pend.command = s.pend.command ∧ t.pend.sendSequence = s.pend.sendSequence ∧
    t.pend.answerCapacity = s.pend.answerCapacity ∧ (s.sig = true → t.sig = true)

/-- 10_state.md section 7 (rule R46, the spec's own decisions D15 and D18): what the correlator's steps never write. -/
def Obligations.CorrelatorWritesOnlyItsOwn : Prop :=
  ∀ (s t : State) (i : Instr) (c : Byte) (p : List Byte) (cap : Half) (flag : Bool),
    i ∈ [Instr.swAcq c p cap flag, .swPop, .swTx flag, .swWake, .swSpurious, .swTimeout, .swExit] → exec i s = .next t →
    t.cfg = s.cfg ∧ t.rx = s.rx ∧ t.ans = s.ans ∧ t.rxbuf = s.rxbuf ∧ t.schedule = s.schedule ∧ t.epoch = s.epoch ∧ t.choices = s.choices ∧
    t.pend.answerSequence = s.pend.answerSequence ∧ (t.sig = true → s.sig = true) ∧
    (i ≠ .swExit → t.pend.sendSequence = s.pend.sendSequence)

/-- 41_receiver.md section 3 (rule R157, which the spec derives): a FEED step does not depend on the lock, the signal, the stage, the
latched request, the schedule or the past outputs. Equal `epoch`s stand for equal unwritten bytes (log entry 3). -/
def Obligations.FeedReadsOnlyItsInputs : Prop :=
  ∀ (b : Byte) (s s' : State), s'.cfg = s.cfg → s'.rx = s.rx → s'.pend = s.pend → s'.ans = s.ans → s'.rxbuf = s.rxbuf →
    s'.epoch = s.epoch →
    ∃ (t t' : State) (added : List Output), exec (.feed b) s = .next t ∧ exec (.feed b) s' = .next t' ∧
      t'.rx = t.rx ∧ t'.pend = t.pend ∧ t'.ans = t.ans ∧ t'.rxbuf = t.rxbuf ∧
      t.outputs = s.outputs ++ added ∧ t'.outputs = s'.outputs ++ added ∧ (s'.sig = s.sig → t'.sig = t.sig)

/-- Rules R6, R32 and R33 over all operations (R32 and R33 carry the spec's own decisions D8 and D38): no operation writes a
configuration constant; the send sequence moves only by an exit, by one, or by a reset; the answer sequence is written only by a
reset and with the current send sequence, where an answer is recognised and where an invalid frame is dispatched while a command is
pending, alone or inside a frame row or an exchange. The frame rows, the exchanges under a plan and the dispatch operations are the
model's own forms (log entries 6, 8 and 16). -/
def Obligations.SequenceAndConfigurationWriters : Prop :=
  ∀ (i : Instr) (s t : State), exec i s = .next t →
    t.cfg = s.cfg ∧
    (i ≠ .reset → t.pend.sendSequence = s.pend.sendSequence ∨
      (t.pend.sendSequence = s.pend.sendSequence + 1 ∧
        (i = .swExit ∨ (∃ c p cap plan, i = .sendAndWait c p cap plan) ∨ ∃ c p plan, i = .sendAndWaitAck c p plan))) ∧
    (i ≠ .reset → t.pend.answerSequence = s.pend.answerSequence ∨
      (t.pend.answerSequence = s.pend.sendSequence ∧
        ((i ∈ [Instr.feed s.pend.command, .rxCmd s.pend.command] ∧ s.rx.state = .awaitCmd ∧ s.pend.active = true) ∨
          (i ∈ [Instr.feed s.cfg.eof, .rxTerm s.cfg.eof, .dispatch, .dispInvalid] ∧ s.rx.state = .awaitTerm ∧
            s.rx.type = .invalid ∧ s.pend.active = true) ∨
          (∃ c p, i ∈ [Instr.frameAnswer c p, .frameReceive p, .frameInvalid p, .frameUnknown c, .frameAck c]) ∨
          (∃ c p cap plan, i = .sendAndWait c p cap plan) ∨ ∃ c p plan, i = .sendAndWaitAck c p plan)))

/-- 42_router.md and 44_environment.md (rules R174 and R218, the latter the spec's own decision D18), in three clauses. A step on one
byte emits `raise_signal`, and so sets the signal, exactly when the byte is `EOF` at `AWAIT_TERM` and the frame is an answer whose
sequences agree or an invalid frame: never for a `Receive`. No step of the correlator, no read, no pure function and no reset emits
it or sets the signal. Any operation an agent takes as its own, the frame rows and the exchanges among them, sets the signal only
together with the event; those two are sequences of the steps of the first two clauses. Which operations are steps of their own is
the model's own choice (log entry 16). -/
def Obligations.SignalIsRaisedByDispatchOnly : Prop :=
  (∀ (s t : State) (i : Instr) (b : Byte),
    i ∈ [Instr.feed b, .rxIdle b, .rxCmd b, .rxLenLo b, .rxLenHi b, .rxData b, .rxCsum b, .rxTerm b] → exec i s = .next t →
    ∃ added, t.outputs = s.outputs ++ added ∧ (t.sig = true ↔ s.sig = true ∨ .raiseSignal ∈ added) ∧
      (.raiseSignal ∈ added ↔ s.rx.state = .awaitTerm ∧ b = s.cfg.eof ∧
        (s.rx.type = .answer ∧ s.pend.answerSequence = s.pend.sendSequence ∨ s.rx.type = .invalid))) ∧
  (∀ (s t : State) (i : Instr) (c : Byte) (p : List Byte) (cap : Half) (flag : Bool) (k : Nat),
    i ∈ [Instr.swAcq c p cap flag, .swPop, .swTx flag, .swWake, .swSpurious, .swTimeout, .swExit, .hostRead k, .csum8 p, .encode c p,
      .encodeAck c flag, .reset] → exec i s = .next t →
    (t.sig = true → s.sig = true) ∧ ∃ added, t.outputs = s.outputs ++ added ∧ .raiseSignal ∉ added) ∧
  ∀ (i : Instr) (s t : State), isOwnStep i = true → exec i s = .next t → s.sig = false → t.sig = true →
    ∃ before after, t.outputs = s.outputs ++ before ++ [.raiseSignal] ++ after

/-- 20_memory.md section 3 (rule R66, the spec's own decision D15): HOST.READ hands back the byte, at any time, and changes no state of
the block; reading twice gives the same byte. Three parts are the model's own choices: the byte is handed back as an entry of the
output trace (log entry 9), an unwritten byte is a free value (log entry 3), and an index outside `ANS` is a fault (log entry 10). -/
def Obligations.HostReadReturnsTheByte : Prop :=
  ∀ (s : State) (i : Nat),
    (i < s.cfg.ansMax.toNat → ∃ t, exec (.hostRead i) s = .next t ∧ t = { s with outputs := s.outputs ++ [.hostRead i (s.readAns i)] } ∧
      exec (.hostRead i) t = .next { t with outputs := t.outputs ++ [.hostRead i (s.readAns i)] }) ∧
    (s.cfg.ansMax.toNat ≤ i → exec (.hostRead i) s = .fault (.noSuchAnswerByte i))

/-- 70_reset_and_hazards.md section 1 and the table of 10_state.md section 7 (the spec's own decisions D9 and D25): RESET, at any
time, gives every item its reset value and emits nothing; the request latches and the bytes of the two memories are unspecified, so
nothing is said of them (log entries 3 and 4). That the trace and the environment's schedule stay is the model's own choice (log
entries 2 and 9). -/
def Obligations.ResetGivesTheTable : Prop :=
  ∀ s : State, ∃ t, exec .reset s = .next t ∧
    t.rx = { state := .idle, command := 0, type := .none, target := .none, capacity := 0, length := 0, counter := 0, csum := 0 } ∧
    t.pend = { active := false, command := 0, sendSequence := s.cfg.sendSeqReset, answerSequence := s.cfg.ansSeqReset,
               answerCapacity := 0, answerLength := 0 } ∧
    t.co = { stage := .idle, result := .fail } ∧ t.lock = false ∧ t.sig = false ∧ t.outputs = s.outputs ∧ t.cfg = s.cfg ∧
    t.schedule = s.schedule

/-- 44_environment.md (rules R216, R218, R220 and R221, the spec's own decisions D18, D23, D24 and D27): what each event does,
whatever the transport's answer to a `write`. Three parts are the model's own choices: the events are operations of `exec` that run
in every state (log entry 16), the answer of the transport is an operand of `write` that changes nothing by itself (log entry 7), and
the name of the refusal (log entry 10). -/
def Obligations.EventEffects : Prop :=
  ∀ s : State,
    (∀ (frame : List Byte) (ok : Bool),
      exec (.write frame ok) s = .next { s with outputs := s.outputs ++ [.write frame] }) ∧
    exec .raiseSignal s = .next { s with sig := true, outputs := s.outputs ++ [.raiseSignal] } ∧
    (∀ (bytes : List Byte) (n : Half), exec (.onReceive bytes n) s = .next { s with outputs := s.outputs ++ [.onReceive bytes n] }) ∧
    (∀ k : ErrorKind, k ∉ [ErrorKind.writeFailure, .timeout] → exec (.log k) s = .next { s with outputs := s.outputs ++ [.log k] }) ∧
    ∀ k : ErrorKind, k ∈ [ErrorKind.writeFailure, .timeout] → exec (.log k) s = .refused .kindNotLogged
end

