-- ==== Sys2Proof/Laws/Bytes.lean ====
section
/-! SUPPORT. The byte helpers of the decoder: halves of a 16-bit value and their joins. -/

namespace Sys2Proof

@[simp] theorem lowByte_joinBytes (hi lo : Byte) : lowByte (joinBytes hi lo) = lo := by
  apply BitVec.eq_of_toNat_eq
  show (BitVec.extractLsb' 0 8 (hi ++ lo : BitVec (8 + 8))).toNat = _
  simp only [BitVec.extractLsb'_toNat, BitVec.toNat_append]
  rw [← Nat.shiftLeft_add_eq_or_of_lt (by omega)]
  simp [Nat.shiftLeft_eq]
  omega

@[simp] theorem highByte_joinBytes (hi lo : Byte) : highByte (joinBytes hi lo) = hi := by
  have := hi.isLt
  apply BitVec.eq_of_toNat_eq
  show (BitVec.extractLsb' 8 8 (hi ++ lo : BitVec (8 + 8))).toNat = _
  simp only [BitVec.extractLsb'_toNat, BitVec.toNat_append]
  rw [← Nat.shiftLeft_add_eq_or_of_lt (by omega)]
  simp [Nat.shiftLeft_eq, Nat.shiftRight_eq_div_pow]
  omega

theorem joinBytes_toNat (hi lo : Byte) : (joinBytes hi lo).toNat = hi.toNat * 256 + lo.toNat := by
  show (hi ++ lo : BitVec (8 + 8)).toNat = _
  simp only [BitVec.toNat_append]
  rw [← Nat.shiftLeft_add_eq_or_of_lt (by omega)]
  simp [Nat.shiftLeft_eq]

theorem lowByte_toNat (v : Half) : (lowByte v).toNat = v.toNat % 256 := by simp [lowByte]

theorem highByte_toNat (v : Half) : (highByte v).toNat = v.toNat / 256 := by
  have := v.isLt
  simp [highByte, Nat.shiftRight_eq_div_pow]
  omega

@[simp] theorem joinBytes_highByte_lowByte (v : Half) : joinBytes (highByte v) (lowByte v) = v := by
  apply BitVec.eq_of_toNat_eq
  rw [joinBytes_toNat, lowByte_toNat, highByte_toNat]
  omega

theorem lowByte_ofNat (n : Nat) : lowByte (BitVec.ofNat 16 n) = BitVec.ofNat 8 (n % 256) := by
  apply BitVec.eq_of_toNat_eq
  simp [lowByte]

theorem highByte_ofNat {n : Nat} (h : n ≤ 65535) : highByte (BitVec.ofNat 16 n) = BitVec.ofNat 8 (n / 256) := by
  apply BitVec.eq_of_toNat_eq
  simp [highByte, Nat.shiftRight_eq_div_pow]
  omega

@[simp] theorem setLowByte_lowByte (v : Half) (b : Byte) : lowByte (setLowByte v b) = b := by simp [setLowByte]
@[simp] theorem setLowByte_highByte (v : Half) (b : Byte) : highByte (setLowByte v b) = highByte v := by simp [setLowByte]
@[simp] theorem setHighByte_lowByte (v : Half) (b : Byte) : lowByte (setHighByte v b) = lowByte v := by simp [setHighByte]
@[simp] theorem setHighByte_highByte (v : Half) (b : Byte) : highByte (setHighByte v b) = b := by simp [setHighByte]

end Sys2Proof
end

