-- ==== Sys2Proof/Laws/State.lean ====
section
/-! SUPPORT. One lemma per field per named update of the state, each true by definition, so that later proofs unfold no record
update. -/

namespace Sys2Proof.Machine

@[simp] theorem State.emit_cfg (s : State) (o : Output) : (s.emit o).cfg = s.cfg := rfl
@[simp] theorem State.emit_rx (s : State) (o : Output) : (s.emit o).rx = s.rx := rfl
@[simp] theorem State.emit_pend (s : State) (o : Output) : (s.emit o).pend = s.pend := rfl
@[simp] theorem State.emit_co (s : State) (o : Output) : (s.emit o).co = s.co := rfl
@[simp] theorem State.emit_rq (s : State) (o : Output) : (s.emit o).rq = s.rq := rfl
@[simp] theorem State.emit_lock (s : State) (o : Output) : (s.emit o).lock = s.lock := rfl
@[simp] theorem State.emit_sig (s : State) (o : Output) : (s.emit o).sig = s.sig := rfl
@[simp] theorem State.emit_ans (s : State) (o : Output) : (s.emit o).ans = s.ans := rfl
@[simp] theorem State.emit_rxbuf (s : State) (o : Output) : (s.emit o).rxbuf = s.rxbuf := rfl
@[simp] theorem State.emit_outputs (s : State) (o : Output) : (s.emit o).outputs = s.outputs ++ [o] := rfl
@[simp] theorem State.emit_schedule (s : State) (o : Output) : (s.emit o).schedule = s.schedule := rfl
@[simp] theorem State.emit_epoch (s : State) (o : Output) : (s.emit o).epoch = s.epoch := rfl
@[simp] theorem State.emit_choices (s : State) (o : Output) : (s.emit o).choices = s.choices := rfl

@[simp] theorem State.writeFrame_cfg (s : State) (f : List Byte) : (s.writeFrame f).cfg = s.cfg := rfl
@[simp] theorem State.writeFrame_rx (s : State) (f : List Byte) : (s.writeFrame f).rx = s.rx := rfl
@[simp] theorem State.writeFrame_pend (s : State) (f : List Byte) : (s.writeFrame f).pend = s.pend := rfl
@[simp] theorem State.writeFrame_co (s : State) (f : List Byte) : (s.writeFrame f).co = s.co := rfl
@[simp] theorem State.writeFrame_rq (s : State) (f : List Byte) : (s.writeFrame f).rq = s.rq := rfl
@[simp] theorem State.writeFrame_lock (s : State) (f : List Byte) : (s.writeFrame f).lock = s.lock := rfl
@[simp] theorem State.writeFrame_sig (s : State) (f : List Byte) : (s.writeFrame f).sig = s.sig := rfl
@[simp] theorem State.writeFrame_ans (s : State) (f : List Byte) : (s.writeFrame f).ans = s.ans := rfl
@[simp] theorem State.writeFrame_rxbuf (s : State) (f : List Byte) : (s.writeFrame f).rxbuf = s.rxbuf := rfl
@[simp] theorem State.writeFrame_outputs (s : State) (f : List Byte) : (s.writeFrame f).outputs = s.outputs ++ [.write f] := rfl
@[simp] theorem State.writeFrame_schedule (s : State) (f : List Byte) : (s.writeFrame f).schedule = s.schedule := rfl
@[simp] theorem State.writeFrame_epoch (s : State) (f : List Byte) : (s.writeFrame f).epoch = s.epoch := rfl
@[simp] theorem State.writeFrame_choices (s : State) (f : List Byte) : (s.writeFrame f).choices = s.choices := rfl

@[simp] theorem State.raiseSignal_cfg (s : State) : (s.raiseSignal).cfg = s.cfg := rfl
@[simp] theorem State.raiseSignal_rx (s : State) : (s.raiseSignal).rx = s.rx := rfl
@[simp] theorem State.raiseSignal_pend (s : State) : (s.raiseSignal).pend = s.pend := rfl
@[simp] theorem State.raiseSignal_co (s : State) : (s.raiseSignal).co = s.co := rfl
@[simp] theorem State.raiseSignal_rq (s : State) : (s.raiseSignal).rq = s.rq := rfl
@[simp] theorem State.raiseSignal_lock (s : State) : (s.raiseSignal).lock = s.lock := rfl
@[simp] theorem State.raiseSignal_sig (s : State) : (s.raiseSignal).sig = true := rfl
@[simp] theorem State.raiseSignal_ans (s : State) : (s.raiseSignal).ans = s.ans := rfl
@[simp] theorem State.raiseSignal_rxbuf (s : State) : (s.raiseSignal).rxbuf = s.rxbuf := rfl
@[simp] theorem State.raiseSignal_outputs (s : State) : (s.raiseSignal).outputs = s.outputs ++ [.raiseSignal] := rfl
@[simp] theorem State.raiseSignal_schedule (s : State) : (s.raiseSignal).schedule = s.schedule := rfl
@[simp] theorem State.raiseSignal_epoch (s : State) : (s.raiseSignal).epoch = s.epoch := rfl
@[simp] theorem State.raiseSignal_choices (s : State) : (s.raiseSignal).choices = s.choices := rfl

@[simp] theorem State.deliver_cfg (s : State) (bs : List Byte) (n : Half) : (s.deliver bs n).cfg = s.cfg := rfl
@[simp] theorem State.deliver_rx (s : State) (bs : List Byte) (n : Half) : (s.deliver bs n).rx = s.rx := rfl
@[simp] theorem State.deliver_pend (s : State) (bs : List Byte) (n : Half) : (s.deliver bs n).pend = s.pend := rfl
@[simp] theorem State.deliver_co (s : State) (bs : List Byte) (n : Half) : (s.deliver bs n).co = s.co := rfl
@[simp] theorem State.deliver_rq (s : State) (bs : List Byte) (n : Half) : (s.deliver bs n).rq = s.rq := rfl
@[simp] theorem State.deliver_lock (s : State) (bs : List Byte) (n : Half) : (s.deliver bs n).lock = s.lock := rfl
@[simp] theorem State.deliver_sig (s : State) (bs : List Byte) (n : Half) : (s.deliver bs n).sig = s.sig := rfl
@[simp] theorem State.deliver_ans (s : State) (bs : List Byte) (n : Half) : (s.deliver bs n).ans = s.ans := rfl
@[simp] theorem State.deliver_rxbuf (s : State) (bs : List Byte) (n : Half) : (s.deliver bs n).rxbuf = s.rxbuf := rfl
@[simp] theorem State.deliver_outputs (s : State) (bs : List Byte) (n : Half) : (s.deliver bs n).outputs = s.outputs ++ [.onReceive bs n] := rfl
@[simp] theorem State.deliver_schedule (s : State) (bs : List Byte) (n : Half) : (s.deliver bs n).schedule = s.schedule := rfl
@[simp] theorem State.deliver_epoch (s : State) (bs : List Byte) (n : Half) : (s.deliver bs n).epoch = s.epoch := rfl
@[simp] theorem State.deliver_choices (s : State) (bs : List Byte) (n : Half) : (s.deliver bs n).choices = s.choices := rfl

@[simp] theorem State.logKind_cfg (s : State) (k : ErrorKind) : (s.logKind k).cfg = s.cfg := rfl
@[simp] theorem State.logKind_rx (s : State) (k : ErrorKind) : (s.logKind k).rx = s.rx := rfl
@[simp] theorem State.logKind_pend (s : State) (k : ErrorKind) : (s.logKind k).pend = s.pend := rfl
@[simp] theorem State.logKind_co (s : State) (k : ErrorKind) : (s.logKind k).co = s.co := rfl
@[simp] theorem State.logKind_rq (s : State) (k : ErrorKind) : (s.logKind k).rq = s.rq := rfl
@[simp] theorem State.logKind_lock (s : State) (k : ErrorKind) : (s.logKind k).lock = s.lock := rfl
@[simp] theorem State.logKind_sig (s : State) (k : ErrorKind) : (s.logKind k).sig = s.sig := rfl
@[simp] theorem State.logKind_ans (s : State) (k : ErrorKind) : (s.logKind k).ans = s.ans := rfl
@[simp] theorem State.logKind_rxbuf (s : State) (k : ErrorKind) : (s.logKind k).rxbuf = s.rxbuf := rfl
@[simp] theorem State.logKind_outputs (s : State) (k : ErrorKind) : (s.logKind k).outputs = s.outputs ++ [.log k] := rfl
@[simp] theorem State.logKind_schedule (s : State) (k : ErrorKind) : (s.logKind k).schedule = s.schedule := rfl
@[simp] theorem State.logKind_epoch (s : State) (k : ErrorKind) : (s.logKind k).epoch = s.epoch := rfl
@[simp] theorem State.logKind_choices (s : State) (k : ErrorKind) : (s.logKind k).choices = s.choices := rfl

@[simp] theorem State.returnToIdle_cfg (s : State) : (s.returnToIdle).cfg = s.cfg := rfl
@[simp] theorem State.returnToIdle_rx (s : State) : (s.returnToIdle).rx = { s.rx with state := .idle } := rfl
@[simp] theorem State.returnToIdle_pend (s : State) : (s.returnToIdle).pend = s.pend := rfl
@[simp] theorem State.returnToIdle_co (s : State) : (s.returnToIdle).co = s.co := rfl
@[simp] theorem State.returnToIdle_rq (s : State) : (s.returnToIdle).rq = s.rq := rfl
@[simp] theorem State.returnToIdle_lock (s : State) : (s.returnToIdle).lock = s.lock := rfl
@[simp] theorem State.returnToIdle_sig (s : State) : (s.returnToIdle).sig = s.sig := rfl
@[simp] theorem State.returnToIdle_ans (s : State) : (s.returnToIdle).ans = s.ans := rfl
@[simp] theorem State.returnToIdle_rxbuf (s : State) : (s.returnToIdle).rxbuf = s.rxbuf := rfl
@[simp] theorem State.returnToIdle_outputs (s : State) : (s.returnToIdle).outputs = s.outputs := rfl
@[simp] theorem State.returnToIdle_schedule (s : State) : (s.returnToIdle).schedule = s.schedule := rfl
@[simp] theorem State.returnToIdle_epoch (s : State) : (s.returnToIdle).epoch = s.epoch := rfl
@[simp] theorem State.returnToIdle_choices (s : State) : (s.returnToIdle).choices = s.choices := rfl

@[simp] theorem State.failExchange_cfg (s : State) : (s.failExchange).cfg = s.cfg := rfl
@[simp] theorem State.failExchange_rx (s : State) : (s.failExchange).rx = s.rx := rfl
@[simp] theorem State.failExchange_pend (s : State) : (s.failExchange).pend = s.pend := rfl
@[simp] theorem State.failExchange_co (s : State) : (s.failExchange).co = { stage := .exit, result := .fail } := rfl
@[simp] theorem State.failExchange_rq (s : State) : (s.failExchange).rq = s.rq := rfl
@[simp] theorem State.failExchange_lock (s : State) : (s.failExchange).lock = s.lock := rfl
@[simp] theorem State.failExchange_sig (s : State) : (s.failExchange).sig = s.sig := rfl
@[simp] theorem State.failExchange_ans (s : State) : (s.failExchange).ans = s.ans := rfl
@[simp] theorem State.failExchange_rxbuf (s : State) : (s.failExchange).rxbuf = s.rxbuf := rfl
@[simp] theorem State.failExchange_outputs (s : State) : (s.failExchange).outputs = s.outputs := rfl
@[simp] theorem State.failExchange_schedule (s : State) : (s.failExchange).schedule = s.schedule := rfl
@[simp] theorem State.failExchange_epoch (s : State) : (s.failExchange).epoch = s.epoch := rfl
@[simp] theorem State.failExchange_choices (s : State) : (s.failExchange).choices = s.choices := rfl

@[simp] theorem State.writeNack_cfg (s : State) : (s.writeNack).cfg = s.cfg := rfl
@[simp] theorem State.writeNack_rx (s : State) : (s.writeNack).rx = s.rx := rfl
@[simp] theorem State.writeNack_pend (s : State) : (s.writeNack).pend = s.pend := rfl
@[simp] theorem State.writeNack_co (s : State) : (s.writeNack).co = s.co := rfl
@[simp] theorem State.writeNack_rq (s : State) : (s.writeNack).rq = s.rq := rfl
@[simp] theorem State.writeNack_lock (s : State) : (s.writeNack).lock = s.lock := rfl
@[simp] theorem State.writeNack_sig (s : State) : (s.writeNack).sig = s.sig := rfl
@[simp] theorem State.writeNack_ans (s : State) : (s.writeNack).ans = s.ans := rfl
@[simp] theorem State.writeNack_rxbuf (s : State) : (s.writeNack).rxbuf = s.rxbuf := rfl
@[simp] theorem State.writeNack_outputs (s : State) : (s.writeNack).outputs = s.outputs ++ [.write (encodeAckFrame s.cfg s.rx.command false)] := rfl
@[simp] theorem State.writeNack_schedule (s : State) : (s.writeNack).schedule = s.schedule := rfl
@[simp] theorem State.writeNack_epoch (s : State) : (s.writeNack).epoch = s.epoch := rfl
@[simp] theorem State.writeNack_choices (s : State) : (s.writeNack).choices = s.choices := rfl

@[simp] theorem foldByte_cfg (s : State) (b : Byte) : (foldByte s b).cfg = s.cfg := rfl
@[simp] theorem foldByte_rx (s : State) (b : Byte) : (foldByte s b).rx = { s.rx with csum := s.rx.csum + b } := rfl
@[simp] theorem foldByte_pend (s : State) (b : Byte) : (foldByte s b).pend = s.pend := rfl
@[simp] theorem foldByte_co (s : State) (b : Byte) : (foldByte s b).co = s.co := rfl
@[simp] theorem foldByte_rq (s : State) (b : Byte) : (foldByte s b).rq = s.rq := rfl
@[simp] theorem foldByte_lock (s : State) (b : Byte) : (foldByte s b).lock = s.lock := rfl
@[simp] theorem foldByte_sig (s : State) (b : Byte) : (foldByte s b).sig = s.sig := rfl
@[simp] theorem foldByte_ans (s : State) (b : Byte) : (foldByte s b).ans = s.ans := rfl
@[simp] theorem foldByte_rxbuf (s : State) (b : Byte) : (foldByte s b).rxbuf = s.rxbuf := rfl
@[simp] theorem foldByte_outputs (s : State) (b : Byte) : (foldByte s b).outputs = s.outputs := rfl
@[simp] theorem foldByte_schedule (s : State) (b : Byte) : (foldByte s b).schedule = s.schedule := rfl
@[simp] theorem foldByte_epoch (s : State) (b : Byte) : (foldByte s b).epoch = s.epoch := rfl
@[simp] theorem foldByte_choices (s : State) (b : Byte) : (foldByte s b).choices = s.choices := rfl

@[simp] theorem recordSequence_cfg (s : State) : (recordSequence s).cfg = s.cfg := rfl
@[simp] theorem recordSequence_rx (s : State) : (recordSequence s).rx = s.rx := rfl
@[simp] theorem recordSequence_pend (s : State) : (recordSequence s).pend = { s.pend with answerSequence := s.pend.sendSequence } := rfl
@[simp] theorem recordSequence_co (s : State) : (recordSequence s).co = s.co := rfl
@[simp] theorem recordSequence_rq (s : State) : (recordSequence s).rq = s.rq := rfl
@[simp] theorem recordSequence_lock (s : State) : (recordSequence s).lock = s.lock := rfl
@[simp] theorem recordSequence_sig (s : State) : (recordSequence s).sig = s.sig := rfl
@[simp] theorem recordSequence_ans (s : State) : (recordSequence s).ans = s.ans := rfl
@[simp] theorem recordSequence_rxbuf (s : State) : (recordSequence s).rxbuf = s.rxbuf := rfl
@[simp] theorem recordSequence_outputs (s : State) : (recordSequence s).outputs = s.outputs := rfl
@[simp] theorem recordSequence_schedule (s : State) : (recordSequence s).schedule = s.schedule := rfl
@[simp] theorem recordSequence_epoch (s : State) : (recordSequence s).epoch = s.epoch := rfl
@[simp] theorem recordSequence_choices (s : State) : (recordSequence s).choices = s.choices := rfl

@[simp] theorem acquire_cfg (r : Request) (s : State) : (acquire r s).cfg = s.cfg := rfl
@[simp] theorem acquire_rx (r : Request) (s : State) : (acquire r s).rx = s.rx := rfl
@[simp] theorem acquire_pend (r : Request) (s : State) : (acquire r s).pend = s.pend := rfl
@[simp] theorem acquire_co (r : Request) (s : State) : (acquire r s).co = { s.co with stage := .locked } := rfl
@[simp] theorem acquire_rq (r : Request) (s : State) : (acquire r s).rq = r := rfl
@[simp] theorem acquire_lock (r : Request) (s : State) : (acquire r s).lock = true := rfl
@[simp] theorem acquire_sig (r : Request) (s : State) : (acquire r s).sig = s.sig := rfl
@[simp] theorem acquire_ans (r : Request) (s : State) : (acquire r s).ans = s.ans := rfl
@[simp] theorem acquire_rxbuf (r : Request) (s : State) : (acquire r s).rxbuf = s.rxbuf := rfl
@[simp] theorem acquire_outputs (r : Request) (s : State) : (acquire r s).outputs = s.outputs := rfl
@[simp] theorem acquire_schedule (r : Request) (s : State) : (acquire r s).schedule = s.schedule := rfl
@[simp] theorem acquire_epoch (r : Request) (s : State) : (acquire r s).epoch = s.epoch := rfl
@[simp] theorem acquire_choices (r : Request) (s : State) : (acquire r s).choices = s.choices := rfl

@[simp] theorem populate_cfg (s : State) : (populate s).cfg = s.cfg := rfl
@[simp] theorem populate_rx (s : State) : (populate s).rx = s.rx := rfl
@[simp] theorem populate_pend (s : State) : (populate s).pend = { s.pend with active := true, command := s.rq.command, answerCapacity := s.rq.capacity, answerLength := 0 } := rfl
@[simp] theorem populate_co (s : State) : (populate s).co = { s.co with stage := .populated } := rfl
@[simp] theorem populate_rq (s : State) : (populate s).rq = s.rq := rfl
@[simp] theorem populate_lock (s : State) : (populate s).lock = s.lock := rfl
@[simp] theorem populate_sig (s : State) : (populate s).sig = s.sig := rfl
@[simp] theorem populate_ans (s : State) : (populate s).ans = s.ans := rfl
@[simp] theorem populate_rxbuf (s : State) : (populate s).rxbuf = s.rxbuf := rfl
@[simp] theorem populate_outputs (s : State) : (populate s).outputs = s.outputs := rfl
@[simp] theorem populate_schedule (s : State) : (populate s).schedule = s.schedule := rfl
@[simp] theorem populate_epoch (s : State) : (populate s).epoch = s.epoch := rfl
@[simp] theorem populate_choices (s : State) : (populate s).choices = s.choices := rfl

@[simp] theorem exitExchange_cfg (s : State) : (exitExchange s).cfg = s.cfg := rfl
@[simp] theorem exitExchange_rx (s : State) : (exitExchange s).rx = s.rx := rfl
@[simp] theorem exitExchange_pend (s : State) : (exitExchange s).pend = clearPending s.pend := rfl
@[simp] theorem exitExchange_co (s : State) : (exitExchange s).co = { s.co with stage := .idle } := rfl
@[simp] theorem exitExchange_rq (s : State) : (exitExchange s).rq = s.rq := rfl
@[simp] theorem exitExchange_lock (s : State) : (exitExchange s).lock = false := rfl
@[simp] theorem exitExchange_sig (s : State) : (exitExchange s).sig = s.sig := rfl
@[simp] theorem exitExchange_ans (s : State) : (exitExchange s).ans = s.ans := rfl
@[simp] theorem exitExchange_rxbuf (s : State) : (exitExchange s).rxbuf = s.rxbuf := rfl
@[simp] theorem exitExchange_outputs (s : State) : (exitExchange s).outputs = s.outputs ++ [.ret s.exitStatus s.pend.answerLength] := rfl
@[simp] theorem exitExchange_schedule (s : State) : (exitExchange s).schedule = s.schedule := rfl
@[simp] theorem exitExchange_epoch (s : State) : (exitExchange s).epoch = s.epoch := rfl
@[simp] theorem exitExchange_choices (s : State) : (exitExchange s).choices = s.choices := rfl

@[simp] theorem timeOut_cfg (s : State) : (timeOut s).cfg = s.cfg := rfl
@[simp] theorem timeOut_rx (s : State) : (timeOut s).rx = s.rx := rfl
@[simp] theorem timeOut_pend (s : State) : (timeOut s).pend = s.pend := rfl
@[simp] theorem timeOut_co (s : State) : (timeOut s).co = { stage := .exit, result := .fail } := rfl
@[simp] theorem timeOut_rq (s : State) : (timeOut s).rq = s.rq := rfl
@[simp] theorem timeOut_lock (s : State) : (timeOut s).lock = s.lock := rfl
@[simp] theorem timeOut_sig (s : State) : (timeOut s).sig = s.sig := rfl
@[simp] theorem timeOut_ans (s : State) : (timeOut s).ans = s.ans := rfl
@[simp] theorem timeOut_rxbuf (s : State) : (timeOut s).rxbuf = s.rxbuf := rfl
@[simp] theorem timeOut_outputs (s : State) : (timeOut s).outputs = s.outputs := rfl
@[simp] theorem timeOut_schedule (s : State) : (timeOut s).schedule = s.schedule := rfl
@[simp] theorem timeOut_epoch (s : State) : (timeOut s).epoch = s.epoch := rfl
@[simp] theorem timeOut_choices (s : State) : (timeOut s).choices = s.choices := rfl

@[simp] theorem countByte_cfg (s : State) : (countByte s).cfg = s.cfg := rfl
@[simp] theorem countByte_rx (s : State) : (countByte s).rx = { s.rx with counter := s.rx.counter + 1, state := if s.rx.counter + 1 = s.rx.length then .awaitCsum else .awaitData } := rfl
@[simp] theorem countByte_pend (s : State) : (countByte s).pend = s.pend := rfl
@[simp] theorem countByte_co (s : State) : (countByte s).co = s.co := rfl
@[simp] theorem countByte_rq (s : State) : (countByte s).rq = s.rq := rfl
@[simp] theorem countByte_lock (s : State) : (countByte s).lock = s.lock := rfl
@[simp] theorem countByte_sig (s : State) : (countByte s).sig = s.sig := rfl
@[simp] theorem countByte_ans (s : State) : (countByte s).ans = s.ans := rfl
@[simp] theorem countByte_rxbuf (s : State) : (countByte s).rxbuf = s.rxbuf := rfl
@[simp] theorem countByte_outputs (s : State) : (countByte s).outputs = s.outputs := rfl
@[simp] theorem countByte_schedule (s : State) : (countByte s).schedule = s.schedule := rfl
@[simp] theorem countByte_epoch (s : State) : (countByte s).epoch = s.epoch := rfl
@[simp] theorem countByte_choices (s : State) : (countByte s).choices = s.choices := rfl

@[simp] theorem reschedule_cfg (s : State) (q : List Input) : (reschedule s q).cfg = s.cfg := rfl
@[simp] theorem reschedule_rx (s : State) (q : List Input) : (reschedule s q).rx = s.rx := rfl
@[simp] theorem reschedule_pend (s : State) (q : List Input) : (reschedule s q).pend = s.pend := rfl
@[simp] theorem reschedule_co (s : State) (q : List Input) : (reschedule s q).co = s.co := rfl
@[simp] theorem reschedule_rq (s : State) (q : List Input) : (reschedule s q).rq = s.rq := rfl
@[simp] theorem reschedule_lock (s : State) (q : List Input) : (reschedule s q).lock = s.lock := rfl
@[simp] theorem reschedule_sig (s : State) (q : List Input) : (reschedule s q).sig = s.sig := rfl
@[simp] theorem reschedule_ans (s : State) (q : List Input) : (reschedule s q).ans = s.ans := rfl
@[simp] theorem reschedule_rxbuf (s : State) (q : List Input) : (reschedule s q).rxbuf = s.rxbuf := rfl
@[simp] theorem reschedule_outputs (s : State) (q : List Input) : (reschedule s q).outputs = s.outputs := rfl
@[simp] theorem reschedule_schedule (s : State) (q : List Input) : (reschedule s q).schedule = q := rfl
@[simp] theorem reschedule_epoch (s : State) (q : List Input) : (reschedule s q).epoch = s.epoch := rfl
@[simp] theorem reschedule_choices (s : State) (q : List Input) : (reschedule s q).choices = s.choices := rfl

@[simp] theorem drawChoice_cfg (s : State) : (drawChoice s).cfg = s.cfg := rfl
@[simp] theorem drawChoice_rx (s : State) : (drawChoice s).rx = s.rx := rfl
@[simp] theorem drawChoice_pend (s : State) : (drawChoice s).pend = s.pend := rfl
@[simp] theorem drawChoice_co (s : State) : (drawChoice s).co = s.co := rfl
@[simp] theorem drawChoice_rq (s : State) : (drawChoice s).rq = s.rq := rfl
@[simp] theorem drawChoice_lock (s : State) : (drawChoice s).lock = s.lock := rfl
@[simp] theorem drawChoice_sig (s : State) : (drawChoice s).sig = s.sig := rfl
@[simp] theorem drawChoice_ans (s : State) : (drawChoice s).ans = s.ans := rfl
@[simp] theorem drawChoice_rxbuf (s : State) : (drawChoice s).rxbuf = s.rxbuf := rfl
@[simp] theorem drawChoice_outputs (s : State) : (drawChoice s).outputs = s.outputs := rfl
@[simp] theorem drawChoice_schedule (s : State) : (drawChoice s).schedule = s.schedule := rfl
@[simp] theorem drawChoice_epoch (s : State) : (drawChoice s).epoch = s.epoch := rfl
@[simp] theorem drawChoice_choices (s : State) : (drawChoice s).choices = s.choices + 1 := rfl

@[simp] theorem State.storeAns_cfg (s : State) (i : Nat) (b : Byte) : (s.storeAns i b).cfg = s.cfg := by
  unfold State.storeAns; split <;> rfl
@[simp] theorem State.storeAns_rx (s : State) (i : Nat) (b : Byte) : (s.storeAns i b).rx = s.rx := by
  unfold State.storeAns; split <;> rfl
@[simp] theorem State.storeAns_pend (s : State) (i : Nat) (b : Byte) : (s.storeAns i b).pend = s.pend := by
  unfold State.storeAns; split <;> rfl
@[simp] theorem State.storeAns_co (s : State) (i : Nat) (b : Byte) : (s.storeAns i b).co = s.co := by
  unfold State.storeAns; split <;> rfl
@[simp] theorem State.storeAns_rq (s : State) (i : Nat) (b : Byte) : (s.storeAns i b).rq = s.rq := by
  unfold State.storeAns; split <;> rfl
@[simp] theorem State.storeAns_lock (s : State) (i : Nat) (b : Byte) : (s.storeAns i b).lock = s.lock := by
  unfold State.storeAns; split <;> rfl
@[simp] theorem State.storeAns_sig (s : State) (i : Nat) (b : Byte) : (s.storeAns i b).sig = s.sig := by
  unfold State.storeAns; split <;> rfl
@[simp] theorem State.storeAns_rxbuf (s : State) (i : Nat) (b : Byte) : (s.storeAns i b).rxbuf = s.rxbuf := by
  unfold State.storeAns; split <;> rfl
@[simp] theorem State.storeAns_outputs (s : State) (i : Nat) (b : Byte) : (s.storeAns i b).outputs = s.outputs := by
  unfold State.storeAns; split <;> rfl
@[simp] theorem State.storeAns_schedule (s : State) (i : Nat) (b : Byte) : (s.storeAns i b).schedule = s.schedule := by
  unfold State.storeAns; split <;> rfl
@[simp] theorem State.storeAns_epoch (s : State) (i : Nat) (b : Byte) : (s.storeAns i b).epoch = s.epoch := by
  unfold State.storeAns; split <;> rfl
@[simp] theorem State.storeAns_choices (s : State) (i : Nat) (b : Byte) : (s.storeAns i b).choices = s.choices := by
  unfold State.storeAns; split <;> rfl

@[simp] theorem State.storeRxbuf_cfg (s : State) (i : Nat) (b : Byte) : (s.storeRxbuf i b).cfg = s.cfg := by
  unfold State.storeRxbuf; split <;> rfl
@[simp] theorem State.storeRxbuf_rx (s : State) (i : Nat) (b : Byte) : (s.storeRxbuf i b).rx = s.rx := by
  unfold State.storeRxbuf; split <;> rfl
@[simp] theorem State.storeRxbuf_pend (s : State) (i : Nat) (b : Byte) : (s.storeRxbuf i b).pend = s.pend := by
  unfold State.storeRxbuf; split <;> rfl
@[simp] theorem State.storeRxbuf_co (s : State) (i : Nat) (b : Byte) : (s.storeRxbuf i b).co = s.co := by
  unfold State.storeRxbuf; split <;> rfl
@[simp] theorem State.storeRxbuf_rq (s : State) (i : Nat) (b : Byte) : (s.storeRxbuf i b).rq = s.rq := by
  unfold State.storeRxbuf; split <;> rfl
@[simp] theorem State.storeRxbuf_lock (s : State) (i : Nat) (b : Byte) : (s.storeRxbuf i b).lock = s.lock := by
  unfold State.storeRxbuf; split <;> rfl
@[simp] theorem State.storeRxbuf_sig (s : State) (i : Nat) (b : Byte) : (s.storeRxbuf i b).sig = s.sig := by
  unfold State.storeRxbuf; split <;> rfl
@[simp] theorem State.storeRxbuf_ans (s : State) (i : Nat) (b : Byte) : (s.storeRxbuf i b).ans = s.ans := by
  unfold State.storeRxbuf; split <;> rfl
@[simp] theorem State.storeRxbuf_outputs (s : State) (i : Nat) (b : Byte) : (s.storeRxbuf i b).outputs = s.outputs := by
  unfold State.storeRxbuf; split <;> rfl
@[simp] theorem State.storeRxbuf_schedule (s : State) (i : Nat) (b : Byte) : (s.storeRxbuf i b).schedule = s.schedule := by
  unfold State.storeRxbuf; split <;> rfl
@[simp] theorem State.storeRxbuf_epoch (s : State) (i : Nat) (b : Byte) : (s.storeRxbuf i b).epoch = s.epoch := by
  unfold State.storeRxbuf; split <;> rfl
@[simp] theorem State.storeRxbuf_choices (s : State) (i : Nat) (b : Byte) : (s.storeRxbuf i b).choices = s.choices := by
  unfold State.storeRxbuf; split <;> rfl

end Sys2Proof.Machine
end

