-- ==== Sys2Proof/Laws/Memory.lean ====
section
/-! SUPPORT. The laws of the byte memories: a read after a write, and the canonical form every operation keeps. -/

namespace Sys2Proof.Machine

theorem Memory.find?_write_same (m : Memory) (i : Nat) (b : Byte) : Memory.find? (Memory.write m i b) i = some b := by
  induction m with
  | nil => simp [Memory.write, Memory.find?]
  | cons c m ih =>
    obtain ⟨k, w⟩ := c
    simp only [Memory.write]
    split
    · simp [Memory.find?]
    · split
      · simp [Memory.find?]
      · rename_i h
        simp [Memory.find?, h, ih]

theorem Memory.find?_write_other (m : Memory) {i j : Nat} (b : Byte) (h : j ≠ i) :
    Memory.find? (Memory.write m i b) j = Memory.find? m j := by
  induction m with
  | nil => simp [Memory.write, Memory.find?, h]
  | cons c m ih =>
    obtain ⟨k, w⟩ := c
    simp only [Memory.write]
    split
    · simp [Memory.find?, h]
    · split
      · rename_i h' ; subst h'; simp [Memory.find?, h]
      · simp [Memory.find?, ih]

/-- Every listed index of a canonical memory after its first is above the first. -/
theorem Memory.wf_head_lt {k : Nat} {w : Byte} {m : Memory} (h : Memory.wf ((k, w) :: m) = true) :
    ∀ c ∈ m, k < c.1 := by
  induction m generalizing k w with
  | nil => simp
  | cons d m ih =>
    obtain ⟨j, v⟩ := d
    simp only [Memory.wf, Bool.and_eq_true, decide_eq_true_eq] at h
    intro c hc
    rcases List.mem_cons.mp hc with rfl | hc
    · exact h.1
    · exact Nat.lt_trans h.1 (ih h.2 c hc)

theorem Memory.wf_cons_iff {k : Nat} {w : Byte} {m : Memory} :
    Memory.wf ((k, w) :: m) = true ↔ (∀ c ∈ m, k < c.1) ∧ Memory.wf m = true := by
  constructor
  · intro h
    refine ⟨Memory.wf_head_lt h, ?_⟩
    cases m with
    | nil => rfl
    | cons d m => simp only [Memory.wf, Bool.and_eq_true] at h; exact h.2
  · rintro ⟨h, hm⟩
    cases m with
    | nil => rfl
    | cons d m => simp only [Memory.wf, Bool.and_eq_true, decide_eq_true_eq]; exact ⟨h d (by simp), hm⟩

theorem Memory.mem_write {m : Memory} {i : Nat} {b : Byte} {c : Host.Cell} (h : c ∈ Memory.write m i b) :
    c = (i, b) ∨ c ∈ m := by
  induction m with
  | nil => simpa [Memory.write] using h
  | cons d m ih =>
    obtain ⟨k, w⟩ := d
    simp only [Memory.write] at h
    split at h
    · simpa using h
    · split at h
      · rcases List.mem_cons.mp h with rfl | h
        · exact .inl rfl
        · exact .inr (by simp [h])
      · rcases List.mem_cons.mp h with rfl | h
        · exact .inr (by simp)
        · rcases ih h with h | h
          · exact .inl h
          · exact .inr (by simp [h])

/-- A write keeps the canonical form. -/
theorem Memory.write_keeps_wf {m : Memory} (h : Memory.wf m = true) (i : Nat) (b : Byte) :
    Memory.wf (Memory.write m i b) = true := by
  induction m with
  | nil => rfl
  | cons d m ih =>
    obtain ⟨k, w⟩ := d
    have ⟨hlt, hm⟩ := Memory.wf_cons_iff.mp h
    simp only [Memory.write]
    split
    · rename_i hik
      refine Memory.wf_cons_iff.mpr ⟨?_, h⟩
      intro c hc
      rcases List.mem_cons.mp hc with rfl | hc
      · exact hik
      · exact Nat.lt_trans hik (hlt c hc)
    · split
      · rename_i hik; subst hik
        exact Memory.wf_cons_iff.mpr ⟨hlt, hm⟩
      · rename_i h1 h2
        refine Memory.wf_cons_iff.mpr ⟨?_, ih hm⟩
        intro c hc
        rcases Memory.mem_write hc with rfl | hc
        · show k < i
          omega
        · exact hlt c hc

/-- A write inside a memory's size keeps every index inside it. -/
theorem Memory.write_keeps_within {n : Nat} {m : Memory} (h : Memory.within n m = true) {i : Nat} (hi : i < n) (b : Byte) :
    Memory.within n (Memory.write m i b) = true := by
  simp only [Memory.within, List.all_eq_true, decide_eq_true_eq] at h ⊢
  intro c hc
  rcases Memory.mem_write hc with rfl | hc
  · exact hi
  · exact h c hc

theorem State.storeAns_keeps_form {s : State} (h : Memory.wf s.ans = true ∧ Memory.within s.cfg.ansMax.toNat s.ans = true)
    (i : Nat) (b : Byte) :
    Memory.wf (s.storeAns i b).ans = true ∧ Memory.within s.cfg.ansMax.toNat (s.storeAns i b).ans = true := by
  unfold State.storeAns
  split
  · rename_i hi; exact ⟨Memory.write_keeps_wf h.1 i b, Memory.write_keeps_within h.2 hi b⟩
  · exact h

theorem State.storeRxbuf_keeps_form {s : State}
    (h : Memory.wf s.rxbuf = true ∧ Memory.within s.cfg.rxbufCap.toNat s.rxbuf = true) (i : Nat) (b : Byte) :
    Memory.wf (s.storeRxbuf i b).rxbuf = true ∧ Memory.within s.cfg.rxbufCap.toNat (s.storeRxbuf i b).rxbuf = true := by
  unfold State.storeRxbuf
  split
  · rename_i hi; exact ⟨Memory.write_keeps_wf h.1 i b, Memory.write_keeps_within h.2 hi b⟩
  · exact h

/-- What a store to `ANS` does to a read of `ANS`. -/
theorem State.readAns_storeAns (s : State) (i j : Nat) (b : Byte) :
    (s.storeAns i b).readAns j = if i < s.cfg.ansMax.toNat ∧ j = i then b else s.readAns j := by
  unfold State.storeAns
  split
  · rename_i hi
    by_cases hj : j = i
    · subst hj; simp [State.readAns, Memory.find?_write_same, hi]
    · simp [State.readAns, Memory.find?_write_other _ _ hj, hj]
  · rename_i hi; simp [hi]

/-- What a store to `RXBUF` does to a read of `RXBUF`. -/
theorem State.readRxbuf_storeRxbuf (s : State) (i j : Nat) (b : Byte) :
    (s.storeRxbuf i b).readRxbuf j = if i < s.cfg.rxbufCap.toNat ∧ j = i then b else s.readRxbuf j := by
  unfold State.storeRxbuf
  split
  · rename_i hi
    by_cases hj : j = i
    · subst hj; simp [State.readRxbuf, Memory.find?_write_same, hi]
    · simp [State.readRxbuf, Memory.find?_write_other _ _ hj, hj]
  · rename_i hi; simp [hi]

/-- A read of `ANS` depends on `ANS` and the epoch alone. -/
theorem State.readAns_congr {s t : State} (h : t.ans = s.ans) (he : t.epoch = s.epoch) (i : Nat) : t.readAns i = s.readAns i := by
  simp [State.readAns, h, he]

/-- A read of `RXBUF` depends on `RXBUF` and the epoch alone. -/
theorem State.readRxbuf_congr {s t : State} (h : t.rxbuf = s.rxbuf) (he : t.epoch = s.epoch) (i : Nat) :
    t.readRxbuf i = s.readRxbuf i := by
  simp [State.readRxbuf, h, he]

end Sys2Proof.Machine
end

