-- ==== Sys2Proof/Laws/Ops.lean ====
section
/-! SUPPORT. One lemma per shared operation that says what it can do, for later proofs to cite instead of unfolding it. -/

namespace Sys2Proof.Machine

@[simp] theorem nextIf_true (r : Refusal) (t : State) : nextIf true r t = .next t := rfl
@[simp] theorem nextIf_false (r : Refusal) (t : State) : nextIf false r t = .refused r := rfl

/-- `nextIf` answers a next state exactly when its condition holds. -/
theorem nextIf_eq_next {c : Bool} {r : Refusal} {t u : State} : nextIf c r t = .next u ↔ c = true ∧ t = u := by
  cases c <;> simp

/-- `acquireThen` answers a next state exactly when the request is in range and the lock free. -/
theorem acquireThen_eq_next {r : Request} {t u s : State} :
    acquireThen r t s = .next u ↔ s.inRange r = true ∧ s.lockFree = true ∧ t = u := by
  unfold acquireThen
  split
  · simp_all [nextIf_eq_next]
  · simp_all

@[simp] theorem feedAll_nil (s : State) : feedAll [] s = s := rfl
@[simp] theorem feedAll_cons (b : Byte) (bs : List Byte) (s : State) : feedAll (b :: bs) s = feedAll bs (feed b s) := rfl

theorem feedAll_append (as bs : List Byte) (s : State) : feedAll (as ++ bs) s = feedAll bs (feedAll as s) := by
  induction as generalizing s with
  | nil => rfl
  | cons a as ih => exact ih (feed a s)

@[simp] theorem runAll_nil (s : State) : runAll [] s = .next s := rfl

/-- Running operations in sequence, where the first part completes. -/
theorem runAll_append {is js : List Instr} {s t : State} (h : runAll is s = .next t) : runAll (is ++ js) s = runAll js t := by
  induction is generalizing s with
  | nil => cases h; rfl
  | cons i is ih =>
    simp only [runAll, List.cons_append] at h ⊢
    cases hi : exec i s with
    | next u => simp only [hi] at h; exact ih h
    | fault f => simp [hi] at h
    | refused r => simp [hi] at h

/-- Feeding bytes one FEED at a time is `feedAll`. -/
theorem runAll_feeds (bs : List Byte) (s : State) : runAll (bs.map .feed) s = .next (feedAll bs s) := by
  induction bs generalizing s with
  | nil => rfl
  | cons b bs ih => exact ih (feed b s)

/-- What a receiver-side or correlator-side error does to the state, by kind. -/
theorem State.raise_spec (s : State) (k : ErrorKind) :
    s.raise k =
      { s with
        rx := if k.isLogged ∧ k ≠ .staleAnswer then { s.rx with state := .idle } else s.rx
        co := if k.isLogged then s.co else { stage := .exit, result := .fail }
        outputs := s.outputs ++ (if k.isLogged then [.log k] else [])
          ++ (if k = .checksumMismatch then [.write (encodeAckFrame s.cfg s.rx.command false)] else []) } := by
  cases k <;> simp [State.raise, State.logKind, State.returnToIdle, State.writeNack, State.writeFrame, State.failExchange,
    State.emit, ErrorKind.isLogged]

/-- Marking a frame sets four registers of the Receive Context and nothing else. -/
theorem markFrame_spec (s : State) (t : FrameType) :
    markFrame s t = { s with rx := { s.rx with type := t, target := targetOf t, capacity := s.capacityOf t, state := .awaitLenLo } } :=
  rfl

/-- Storing a payload byte touches `ANS` and `RXBUF` only. -/
theorem storePayload_spec (b : Byte) (s : State) :
    storePayload b s = { s with ans := (storePayload b s).ans, rxbuf := (storePayload b s).rxbuf } := by
  unfold storePayload State.storeAns State.storeRxbuf
  split
  · split
    · split <;> rfl
    · split <;> rfl
    · rfl
  · rfl

/-- The dispatch touches two fields of the Pending Command, the signal and the trace only. -/
theorem dispatchFrame_spec (s : State) :
    dispatchFrame s = { s with
      pend := { s.pend with
        answerSequence := (dispatchFrame s).pend.answerSequence
        answerLength := (dispatchFrame s).pend.answerLength }
      sig := (dispatchFrame s).sig
      outputs := (dispatchFrame s).outputs } := by
  unfold dispatchFrame answerFrame invalidFrame receiveFrame
  split
  · split <;> rfl
  · rfl
  · rfl
  · rfl

@[simp] theorem dispatchFrame_cfg (s : State) : (dispatchFrame s).cfg = s.cfg := by rw [dispatchFrame_spec]
@[simp] theorem dispatchFrame_rx (s : State) : (dispatchFrame s).rx = s.rx := by rw [dispatchFrame_spec]

/-- A FEED step touches the Receive Context, the two memories, the two answer fields of the Pending Command, the signal and the
trace only. -/
theorem feed_spec (b : Byte) (s : State) :
    feed b s = { s with
      rx := (feed b s).rx
      pend := { s.pend with
        answerSequence := (feed b s).pend.answerSequence
        answerLength := (feed b s).pend.answerLength }
      sig := (feed b s).sig
      ans := (feed b s).ans
      rxbuf := (feed b s).rxbuf
      outputs := (feed b s).outputs } := by
  unfold feed
  split
  · unfold rxIdle; split <;> rfl
  · unfold rxCmd; dsimp only; split <;> rfl
  · rfl
  · unfold rxLenHi; dsimp only; split
    · rfl
    · split <;> rfl
  · unfold rxData; rw [storePayload_spec]; rfl
  · unfold rxCsum; split <;> rfl
  · unfold rxTerm; split
    · rw [dispatchFrame_spec]; rfl
    · rfl

@[simp] theorem feed_cfg (b : Byte) (s : State) : (feed b s).cfg = s.cfg := by rw [feed_spec]
@[simp] theorem feed_co (b : Byte) (s : State) : (feed b s).co = s.co := by rw [feed_spec]
@[simp] theorem feed_rq (b : Byte) (s : State) : (feed b s).rq = s.rq := by rw [feed_spec]
@[simp] theorem feed_lock (b : Byte) (s : State) : (feed b s).lock = s.lock := by rw [feed_spec]
@[simp] theorem feed_schedule (b : Byte) (s : State) : (feed b s).schedule = s.schedule := by rw [feed_spec]
@[simp] theorem feed_epoch (b : Byte) (s : State) : (feed b s).epoch = s.epoch := by rw [feed_spec]
@[simp] theorem feed_choices (b : Byte) (s : State) : (feed b s).choices = s.choices := by rw [feed_spec]

@[simp] theorem feedAll_cfg (bs : List Byte) (s : State) : (feedAll bs s).cfg = s.cfg := by
  induction bs generalizing s with
  | nil => rfl
  | cons b bs ih => simp [ih]

@[simp] theorem feedAll_co (bs : List Byte) (s : State) : (feedAll bs s).co = s.co := by
  induction bs generalizing s with
  | nil => rfl
  | cons b bs ih => simp [ih]

@[simp] theorem feedAll_rq (bs : List Byte) (s : State) : (feedAll bs s).rq = s.rq := by
  induction bs generalizing s with
  | nil => rfl
  | cons b bs ih => simp [ih]

@[simp] theorem feedAll_lock (bs : List Byte) (s : State) : (feedAll bs s).lock = s.lock := by
  induction bs generalizing s with
  | nil => rfl
  | cons b bs ih => simp [ih]

/-- A re-check of the sequences touches the correlator's registers only. -/
theorem recheck_spec (s : State) : recheck s = { s with co := (recheck s).co } := by
  unfold recheck; split <;> rfl

@[simp] theorem recheck_outputs (s : State) : (recheck s).outputs = s.outputs := by rw [recheck_spec]
@[simp] theorem recheck_sig (s : State) : (recheck s).sig = s.sig := by rw [recheck_spec]

end Sys2Proof.Machine
end

