-- ==== Sys2Proof/Laws/Decode.lean ====
section
/-! SUPPORT. One lemma per function of the receive side's decoder that says what it read when it answers, and that what it reads is
an operation an agent may take. -/

namespace Sys2Proof

theorem classify_eq_receive {cfg : Config} {awaited : Option Byte} {c : Byte} (h : classify cfg awaited c = .receive) :
    c = cfg.cmdReceive := by
  unfold classify at h
  split at h
  · simp at h
  · split at h
    · assumption
    · split at h <;> simp at h

theorem classify_eq_invalid {cfg : Config} {awaited : Option Byte} {c : Byte} (h : classify cfg awaited c = .invalid) :
    c = cfg.cmdInvalid := by
  unfold classify at h
  split at h
  · simp at h
  · split at h
    · simp at h
    · split at h
      · assumption
      · simp at h

theorem wrapParsed_ok {mk : List Byte → Instr} {e : Except FrameError (List Byte × List Byte)} {i : Instr} {rest : List Byte}
    (h : wrapParsed mk e = .ok (i, rest)) : ∃ p, e = .ok (p, rest) ∧ i = mk p := by
  cases e with
  | error e => simp [wrapParsed] at h
  | ok x =>
    obtain ⟨p, q⟩ := x
    simp only [wrapParsed, Except.ok.injEq, Prod.mk.injEq] at h
    exact ⟨p, by rw [h.2], h.1.symm⟩

/-- What was read after the command byte is the rest of a frame of the parsed payload, within the bound, then the remaining bytes. -/
theorem parseAfterCommand_ok {cfg : Config} {bound : Half} {c : Byte} {bs p rest : List Byte}
    (h : parseAfterCommand cfg bound c bs = .ok (p, rest)) :
    p.length ≤ bound.toNat ∧
      bs = lowByte (BitVec.ofNat 16 p.length) :: highByte (BitVec.ofNat 16 p.length) :: p
        ++ [csum8 (frameBody cfg c p), cfg.eof] ++ rest := by
  match bs, h with
  | [], h => simp [parseAfterCommand] at h
  | [_], h => simp [parseAfterCommand] at h
  | lo :: hi :: body, h =>
    simp only [parseAfterCommand] at h
    split at h
    · simp at h
    · next hb =>
      split at h
      · next s e tail hd =>
        split at h
        · next hs =>
          split at h
          · next he =>
            simp only [Except.ok.injEq, Prod.mk.injEq] at h
            obtain ⟨hp, rfl⟩ := h
            have hlen : (joinBytes hi lo).toNat ≤ body.length := by
              rcases Nat.lt_or_ge body.length (joinBytes hi lo).toNat with hc | hc
              · rw [List.drop_eq_nil_of_le (by omega)] at hd; simp at hd
              · exact hc
            have hpl : p.length = (joinBytes hi lo).toNat := by rw [← hp]; simp [hlen]
            have hbody : body = p ++ s :: e :: tail := by rw [← hp, ← hd]; simp
            have e16 : BitVec.ofNat 16 p.length = joinBytes hi lo := by rw [hpl]; simp
            refine ⟨by rw [hpl]; rw [BitVec.lt_def] at hb; omega, ?_⟩
            rw [e16, lowByte_joinBytes, highByte_joinBytes, hbody, hs, he, hp]
            simp [frameBody, frameHeader, e16]
          · simp at h
        · simp at h
      · simp at h

/-- A frame that was read is one of the four rows, and its encoding is the part of the stream that was taken. -/
theorem decodeFrame_ok {v : View} {bs rest : List Byte} {i : Instr} (h : decodeFrame v bs = .ok (i, rest)) :
    ∃ used, bs = used ++ rest ∧ used ≠ [] ∧ encode v.cfg i = some used ∧
      ((∃ c p, i = .frameAnswer c p ∧ p.length ≤ 65535) ∨ (∃ p, i = .frameReceive p ∧ p.length ≤ 65535) ∨
        (∃ p, i = .frameInvalid p ∧ p.length ≤ 65535) ∨ ∃ c, i = .frameUnknown c) := by
  match bs, h with
  | [], h => simp [decodeFrame] at h
  | [b], h => simp only [decodeFrame] at h; split at h <;> simp at h
  | b :: c :: body, h =>
    have hmax := (v.cfg.maxLen c).isLt
    simp only [decodeFrame] at h
    split at h
    · next hb =>
      subst hb
      split at h
      · obtain ⟨p, hp, rfl⟩ := wrapParsed_ok h
        obtain ⟨hl, rfl⟩ := parseAfterCommand_ok hp
        refine ⟨encodeFrame v.cfg c p, ?_, ?_, rfl, .inl ⟨_, _, rfl, by omega⟩⟩ <;> simp [encodeFrame, frameBody, frameHeader]
      · next hc =>
        obtain ⟨p, hp, rfl⟩ := wrapParsed_ok h
        obtain ⟨hl, rfl⟩ := parseAfterCommand_ok hp
        have hcode := classify_eq_receive hc
        refine ⟨encodeFrame v.cfg c p, ?_, ?_, by rw [hcode]; rfl, .inr (.inl ⟨_, rfl, by omega⟩)⟩ <;>
          simp [encodeFrame, frameBody, frameHeader]
      · next hc =>
        obtain ⟨p, hp, rfl⟩ := wrapParsed_ok h
        obtain ⟨hl, rfl⟩ := parseAfterCommand_ok hp
        have hcode := classify_eq_invalid hc
        refine ⟨encodeFrame v.cfg c p, ?_, ?_, by rw [hcode]; rfl, .inr (.inr (.inl ⟨_, rfl, by omega⟩))⟩ <;>
          simp [encodeFrame, frameBody, frameHeader]
      · simp only [Except.ok.injEq, Prod.mk.injEq] at h
        obtain ⟨rfl, rfl⟩ := h
        exact ⟨[v.cfg.sof, c], rfl, by simp, rfl, .inr (.inr (.inr ⟨_, rfl⟩))⟩
    · simp at h

/-- A byte that was read is the arm the receiver state selects. -/
theorem decodeByte_ok {v : View} {bs rest : List Byte} {i : Instr} (h : decodeByte v bs = .ok (i, rest)) :
    ∃ b, bs = b :: rest ∧ i = selectArm v.rxState b ∧ encode v.cfg i = some [b] := by
  match bs, h with
  | [], h => simp [decodeByte] at h
  | b :: bs, h =>
    simp only [decodeByte, Except.ok.injEq, Prod.mk.injEq] at h
    obtain ⟨rfl, rfl⟩ := h
    exact ⟨b, rfl, rfl, by cases v.rxState <;> rfl⟩

/-- The decoder answers a frame or a byte. -/
theorem decode_ok {v : View} {bs rest : List Byte} {i : Instr} (h : decode v bs = .ok (i, rest)) :
    decodeFrame v bs = .ok (i, rest) ∨ decodeByte v bs = .ok (i, rest) := by
  unfold decode at h
  split at h
  · split at h
    · next r hr => exact .inl (hr.trans h)
    · exact .inr h
  all_goals exact .inr h

end Sys2Proof

namespace Sys2Proof.Machine

/-- The arm that `rx.state` selects is FEED. -/
theorem exec_selectArm (s : State) (b : Byte) : exec (selectArm s.rx.state b) s = .next (feed b s) := by
  cases h : s.rx.state <;>
    simp [selectArm, exec, execRxIdle, execRxCmd, execRxLenLo, execRxLenHi, execRxData, execRxCsum, execRxTerm, h, feed]

/-- What the decoder reads at a state is a step the feeder may take there, and takes at least one byte. -/
theorem decode_enabled {s : State} {bs rest : List Byte} {i : Instr} (h : decode s.view bs = .ok (i, rest)) :
    isOwnStep i = true ∧ enabled s i = true ∧ rest.length < bs.length := by
  rcases decode_ok h with h | h
  · obtain ⟨used, rfl, hne, -, hrow⟩ := decodeFrame_ok h
    have hlt : rest.length < (used ++ rest).length := by
      have := List.length_pos_iff.2 hne
      simp only [List.length_append]; omega
    rcases hrow with ⟨c, p, rfl, hl⟩ | ⟨p, rfl, hl⟩ | ⟨p, rfl, hl⟩ | ⟨c, rfl⟩
    · exact ⟨rfl, by simpa [enabled, encodable] using hl, hlt⟩
    · exact ⟨rfl, by simpa [enabled, encodable] using hl, hlt⟩
    · exact ⟨rfl, by simpa [enabled, encodable] using hl, hlt⟩
    · exact ⟨rfl, rfl, hlt⟩
  · obtain ⟨b, rfl, rfl, -⟩ := decodeByte_ok h
    show isOwnStep (selectArm s.rx.state b) = true ∧ enabled s (selectArm s.rx.state b) = true ∧ _
    cases hs : s.rx.state <;> simp [selectArm, isOwnStep, enabled, hs]

end Sys2Proof.Machine
end

