-- ==== Sys2Proof/Laws/Step.lean ====
section
/-! SUPPORT. What a step runs: one lemma for the schedule, one for the sequencer's own step, one for both, and the measure that
bounds how long the machine goes on by itself (rule R200). -/

namespace Sys2Proof.Machine

@[simp] theorem reschedule_enabled (s : State) (q : List Input) (i : Instr) : enabled (reschedule s q) i = enabled s i := by
  cases i <;> rfl

@[simp] theorem drawChoice_enabled (s : State) (i : Instr) : enabled (drawChoice s) i = enabled s i := by cases i <;> rfl

/-- What the schedule gives is a step an agent may take now, and leaves less scheduled. -/
theorem takeNext_spec {s : State} {q rest : List Input} {i : Instr} (h : takeNext s q = some (i, rest)) :
    isOwnStep i = true ∧ enabled s i = true ∧ scheduledSize rest < scheduledSize q := by
  induction q generalizing rest with
  | nil => simp [takeNext] at h
  | cons x q ih =>
    cases x with
    | bytes bs =>
      simp only [takeNext] at h
      split at h
      · next j more hd =>
        simp only [Option.some.injEq, Prod.mk.injEq] at h
        obtain ⟨rfl, rfl⟩ := h
        obtain ⟨ho, he, hl⟩ := decode_enabled hd
        refine ⟨ho, he, ?_⟩
        unfold leftover
        split <;> simp only [scheduledSize] <;> omega
      · obtain ⟨ho, he, hl⟩ := ih h
        exact ⟨ho, he, by simp only [scheduledSize]; omega⟩
    | op j =>
      simp only [takeNext] at h
      split at h
      · next hj =>
        simp only [Option.some.injEq, Prod.mk.injEq] at h
        obtain ⟨rfl, rfl⟩ := h
        simp only [Bool.and_eq_true] at hj
        exact ⟨hj.1, hj.2, by simp [scheduledSize]⟩
      · split at h
        · next k r hr =>
          simp only [Option.some.injEq, Prod.mk.injEq] at h
          obtain ⟨rfl, rfl⟩ := h
          obtain ⟨ho, he, hl⟩ := ih hr
          exact ⟨ho, he, by simp only [scheduledSize]; omega⟩
        · simp at h

/-- Where every scheduled operation is one that no agent may take now, the schedule gives nothing. -/
theorem takeNext_eq_none {s : State} {q : List Input}
    (h : ∀ x ∈ q, ∃ i, x = .op i ∧ (isOwnStep i && enabled s i) = false) : takeNext s q = none := by
  induction q with
  | nil => rfl
  | cons x q ih =>
    obtain ⟨i, rfl, hi⟩ := h x (by simp)
    simp only [takeNext, hi]
    rw [ih fun y hy => h y (by simp [hy])]
    rfl

/-- The sequencer's own step is enabled where it is taken. -/
theorem sequencerNext_spec {s t : State} {i : Instr} (h : sequencerNext s = some (i, t)) :
    isOwnStep i = true ∧ enabled t i = true := by
  unfold sequencerNext at h
  split at h <;> simp only [Option.some.injEq, Prod.mk.injEq, reduceCtorEq] at h <;> obtain ⟨rfl, rfl⟩ := h
  · next hs => simp [isOwnStep, enabled, hs]
  · next hs => simp [isOwnStep, enabled, hs]
  · next hs => cases hg : s.sig <;> simp [isOwnStep, enabled, State.canWake, State.canTimeout, hs, hg]
  · next hs => simp [isOwnStep, enabled, hs]

/-- The sequencer has no step of its own exactly when no exchange is in progress. -/
theorem sequencerNext_eq_none {s : State} : sequencerNext s = none ↔ s.co.stage = .idle := by
  unfold sequencerNext
  cases s.co.stage <;> simp

/-- What a step runs is a step an agent may take where it is taken. -/
theorem nextOperation_spec {s t : State} {i : Instr} (h : nextOperation s = some (i, t)) :
    isOwnStep i = true ∧ enabled t i = true := by
  unfold nextOperation at h
  split at h
  · next hj =>
    simp only [Option.some.injEq, Prod.mk.injEq] at h
    obtain ⟨rfl, rfl⟩ := h
    exact ⟨(takeNext_spec hj).1, by simpa using (takeNext_spec hj).2.1⟩
  · exact sequencerNext_spec h

/-- How many own steps an exchange has left, at most. -/
def stepsLeft (s : State) : Nat :=
  match s.co.stage with
  | .idle => 0
  | .exit => 1
  | .wait => if s.sig then 3 else 2
  | .populated => 4
  | .locked => 5

theorem stepsLeft_le (s : State) : stepsLeft s ≤ 5 := by
  unfold stepsLeft
  split <;> (try split) <;> omega

/-- An own step of the sequencer brings its exchange nearer to the end and leaves the schedule alone. -/
theorem sequencerNext_stepsLeft {s u t : State} {i : Instr} (h : sequencerNext s = some (i, u)) (he : exec i u = .next t) :
    t.schedule = s.schedule ∧ stepsLeft t < stepsLeft s := by
  unfold sequencerNext at h
  split at h <;> simp only [Option.some.injEq, Prod.mk.injEq, reduceCtorEq] at h <;> obtain ⟨rfl, rfl⟩ := h
  · next hs =>
    simp only [exec, execSwPop, hs, decide_true, nextIf_true, Host.Outcome.next.injEq] at he
    subst he
    simp [stepsLeft, populate, hs]
  · next hs =>
    simp only [exec, execSwTx, drawChoice_co, hs, decide_true, nextIf_true, Host.Outcome.next.injEq] at he
    subst he
    simp only [stepsLeft, hs]
    unfold transmit
    dsimp only
    split
    · cases hg : s.sig <;> simp [hg]
    · simp [State.raise_spec, ErrorKind.isLogged]
  · next hs =>
    cases hg : s.sig <;> simp [exec, execSwWake, execSwTimeout, hs, hg] at he <;> subst he
    · simp [timeOut, State.raise_spec, stepsLeft, hs, hg, ErrorKind.isLogged]
    · simp only [wake, recheck]
      split <;> simp [stepsLeft, hs, hg]
  · next hs =>
    simp only [exec, execSwExit, hs, decide_true, nextIf_true, Host.Outcome.next.injEq] at he
    subst he
    simp [stepsLeft, exitExchange, hs]

/-- A run of the host's machine takes its first step and goes on. -/
theorem run_succ {k : Nat} {s t : State} (h : step s = .next t) :
    Host.Core.run Sys2Proof.core (k + 1) s = Host.Core.run Sys2Proof.core k t := by
  have general : ∀ (M : Host.Core) (a b : M.State), M.step a = .next b → M.run (k + 1) a = M.run k b :=
    fun M a b hab => by simp only [Host.Core.run, hab]
  exact general Sys2Proof.core s t h

/-- While a command is pending, a FEED step leaves it pending, keeps the agreement of the sequences and a raised signal, and raises
the signal only with the sequences in agreement (rules R171, R172). -/
theorem feed_inExchange (b : Byte) {s : State} (ha : s.pend.active = true) :
    (feed b s).pend.active = true ∧
      (s.pend.answerSequence = s.pend.sendSequence → (feed b s).pend.answerSequence = (feed b s).pend.sendSequence) ∧
      (s.sig = true → (feed b s).sig = true) ∧
      ((feed b s).sig = true → s.sig = true ∨ (feed b s).pend.answerSequence = (feed b s).pend.sendSequence) := by
  unfold feed
  cases hs : s.rx.state <;> simp only []
  · unfold rxIdle; split <;> simp [ha] <;> exact Or.inl
  · unfold rxCmd
    cases hc : s.classified b <;> simp only []
    · simp [State.raise_spec, ha]; exact Or.inl
    · simp [markFrame, recordSequence, ha]
    · simp [markFrame, ha]; exact Or.inl
    · simp [markFrame, ha]; exact Or.inl
  · simp [rxLenLo, ha]; exact Or.inl
  · unfold rxLenHi; dsimp only; split
    · simp [State.raise_spec, ha]; exact Or.inl
    · split <;> (simp [ha]; exact Or.inl)
  · unfold rxData; rw [storePayload_spec]; simp [countByte, foldByte, ha]; exact Or.inl
  · unfold rxCsum; split
    · simp [ha]; exact Or.inl
    · simp [State.raise_spec, ha]; exact Or.inl
  · unfold rxTerm; split
    · cases ht : s.rx.type <;> simp only [dispatchFrame, ht]
      · simp [State.returnToIdle, ha]; exact Or.inl
      · unfold answerFrame State.sequencesAgree
        by_cases hq : s.pend.answerSequence = s.pend.sendSequence
        · simp [hq, ha, State.returnToIdle, State.raiseSignal, State.emit]
        · simp [hq, ha, State.returnToIdle, State.raise_spec]
      · simp [State.returnToIdle, receiveFrame, State.deliver, State.emit, ha]; exact Or.inl
      · simp [State.returnToIdle, invalidFrame, State.raiseSignal, State.emit, ha]
    · simp [State.raise_spec, ha]; exact Or.inl

end Sys2Proof.Machine
end

