-- ==== Sys2Proof/Tests/Slice0.lean ====
section
/-! SUPPORT. Tests. Expected results are those printed in 95_test_vectors.md (V and P numbers) and in the examples of the rules. -/

namespace Sys2Proof.Tests

open Sys2Proof Sys2Proof.Machine

/-! ## Small states -/

/-- Reset, with the receiver's context replaced. -/
def withRx (rx : Rx) : State := { State.reset with rx := rx }

/-- Reset, after `feed 02`. -/
def atCmd : State := withRx { Rx.reset with state := .awaitCmd, csum := 0x02 }

/-- Reset, after `feed 02 80`. -/
def atLenLo : State :=
  withRx { Rx.reset with state := .awaitLenLo, command := 0x80, type := .receive, target := .rxbuf, capacity := 300, csum := 0x82 }

/-- Reset, after `feed 02 80 lo`. -/
def atLenHi (lo : Half) (sum : Byte) : State :=
  withRx { atLenLo.rx with state := .awaitLenHi, length := lo, csum := sum }

/-- Reset, in the payload of a frame `80` of `n` bytes, `k` of them taken. -/
def atData (n k : Half) (sum : Byte) : State :=
  withRx { atLenLo.rx with state := .awaitData, length := n, counter := k, csum := sum }

/-- Reset, in a footer of the frame `80` with payload `11`; `RXBUF[0] = 11`. -/
def atFooter (st : RxState) : State :=
  { withRx { atLenLo.rx with state := st, length := 1, counter := 1, csum := 0x94 } with rxbuf := [(0, 0x11)] }

/-- An exchange for `3A` that waits: `acq(3A, [], cap); pop; tx ok`, the event of `tx` left out of the trace. -/
def waiting (cap : Half) : State :=
  { State.reset with
    pend := { active := true, command := 0x3A, sendSequence := 1, answerSequence := 0, answerCapacity := cap, answerLength := 0 }
    co := { stage := .wait, result := .fail }
    rq := { command := 0x3A, payload := [], capacity := cap, ack := false }
    lock := true }

/-- The same exchange at another stage. -/
def atStage (st : Stage) : State := { waiting 16 with co := { stage := st, result := .ok } }

/-- An exchange locked and not yet populated. -/
def locked : State :=
  { State.reset with
    rq := { command := 0x3A, payload := [], capacity := 16, ack := false }
    co := { stage := .locked, result := .fail }
    lock := true }

/-- The waiting exchange with an `Answer` frame of 2 bytes in its payload, one byte taken. -/
def answering (cap : Half) : State :=
  { waiting cap with
    rx := { state := .awaitData, command := 0x3A, type := .answer, target := .ans, capacity := cap, length := 2, counter := 1,
            csum := 0x7F }
    pend := { (waiting cap).pend with answerSequence := 1 }
    ans := [(0, 0x41)] }

/-- The waiting exchange with a frame of a type at its terminator. -/
def terminating (t : FrameType) : State :=
  { waiting 16 with
    rx := { state := .awaitTerm, command := 0x3A, type := t, target := targetOf t, capacity := (waiting 16).capacityOf t,
            length := 0, counter := 0, csum := 0x3C }
    pend := { (waiting 16).pend with answerSequence := 1 } }

/-- Bytes scheduled. -/
def scheduled (q : List Input) : State := { State.reset with schedule := q }

/-- A plan that feeds nothing before the write, and the moves `ms` after a good one. -/
def plan (ms : List WaitMove) : ExchangePlan := { afterAcq := [], afterPop := [], ok := true, moves := ms }

/-- The bytes of a frame as moves. -/
def feeds (c : Byte) (p : List Byte) : List WaitMove := (encodeFrame Config.T c p).map .feed

/-- What a state shows of an operation. -/
def after (i : Instr) (s : State) : Option State := nextState? (exec i s)

/-! ## Well-formedness: each check refuses a term -/

theorem ofPayload_long {p : List Byte} (h : 65535 < p.length) : Malformed.ofPayload p = some .payloadTooLong := by
  unfold Malformed.ofPayload
  rw [if_neg (Nat.not_le_of_gt h)]
theorem length_at_most {n m : Nat} {b : Byte} (h : n ≤ m) : (List.replicate n b).length ≤ m := by
  rw [List.length_replicate]; exact h
theorem length_long : 65535 < (List.replicate 65536 (0 : Byte)).length := by rw [List.length_replicate]; decide
theorem length_longest : (List.replicate 65535 (0 : Byte)).length ≤ 65535 := length_at_most (Nat.le_refl _)
theorem test_malformed_payloadTooLong : (Instr.encode 0x55 (List.replicate 65536 0)).malformed Config.T = some .payloadTooLong :=
  ofPayload_long length_long
theorem test_malformed_overMaxLen : (Instr.frameAnswer 0x10 [0, 0]).malformed Config.T = some .overMaxLen := by decide
theorem test_malformed_capacityOverMax : (Instr.swAcq 0x3A [] 301 false).malformed Config.T = some .capacityOverMax := by decide
theorem test_malformed_indexOutsideAns : (Instr.hostRead 300).malformed Config.T = some .indexOutsideAns := by decide
theorem test_malformed_notAFrameSize : (Instr.write [2, 0x3A, 0, 0, 0x3C] true).malformed Config.T = some .notAFrameSize := by decide
theorem test_malformed_deliveredCount : (Instr.onReceive [1] 2).malformed Config.T = some .deliveredCount := by decide
theorem test_malformed_kindNotLogged : (Instr.log .timeout).malformed Config.T = some .kindNotLogged := by decide
theorem test_wellFormed : ∀ i ∈ [Instr.frameAnswer 0x10 [0], .swAcq 0x3A [] 300 false, .hostRead 299, .write [2, 0x3A, 0, 0, 0x3C, 3] true,
    .onReceive [1] 1, .log .staleAnswer], i.wellFormed Config.T = true := by decide

/-! ## Decoding: words written out from the frame format -/

/-- V11. -/
theorem test_decode_frameReceive :
    decode resetView [0x02, 0x80, 0x04, 0x00, 0xDE, 0xAD, 0xBE, 0xEF, 0xBE, 0x03] = .ok (.frameReceive [0xDE, 0xAD, 0xBE, 0xEF], []) := by
  decide
/-- V45's frame, while `3A` is awaited. -/
theorem test_decode_frameAnswer :
    decode (waiting 16).view [0x02, 0x3A, 0x00, 0x00, 0x3C, 0x03, 0x02] = .ok (.frameAnswer 0x3A [], [0x02]) := by decide
/-- V13. -/
theorem test_decode_frameInvalid : decode resetView [0x02, 0xFF, 0x00, 0x00, 0x01, 0x03] = .ok (.frameInvalid [], []) := by decide
/-- V22. -/
theorem test_decode_frameUnknown : decode resetView [0x02, 0x3A, 0x00] = .ok (.frameUnknown 0x3A, [0x00]) := by decide
/-- V10. -/
theorem test_decode_cmdVersion : decodeSent Config.T [0x02, 0x3A, 0x00, 0x00, 0x3C, 0x03] = .ok (.cmdVersion, []) := by decide
/-- V12, sent. -/
theorem test_decode_frameCommand :
    decodeSent Config.T [0x02, 0x80, 0x03, 0x00, 0x02, 0x03, 0x02, 0x8C, 0x03] = .ok (.frameCommand 0x80 [0x02, 0x03, 0x02], []) := by
  decide
/-- V17. -/
theorem test_decode_frameAck : decodeSent Config.T [0x02, 0x10, 0x01, 0x00, 0x00, 0x13, 0x03] = .ok (.frameAck 0x10, []) := by decide
/-- V18. -/
theorem test_decode_frameNack : decodeSent Config.T [0x02, 0x10, 0x01, 0x00, 0x01, 0x14, 0x03] = .ok (.frameNack 0x10, []) := by decide
/-- A byte is the arm that `rx.state` selects (rule R140). -/
theorem test_decode_arms :
    decode resetView [0x55] = .ok (.rxIdle 0x55, []) ∧ decode atCmd.view [0x80] = .ok (.rxCmd 0x80, []) ∧
    decode atLenLo.view [0x04] = .ok (.rxLenLo 0x04, []) ∧ decode (atLenHi 4 0x86).view [0x00] = .ok (.rxLenHi 0x00, []) ∧
    decode (atData 4 0 0x86).view [0xDE] = .ok (.rxData 0xDE, []) ∧ decode (atFooter .awaitCsum).view [0x94] = .ok (.rxCsum 0x94, []) ∧
    decode (atFooter .awaitTerm).view [0x03] = .ok (.rxTerm 0x03, []) := by decide
/-- A frame that is not whole, or is wrong, is read byte by byte; the reasons have names. -/
theorem test_decode_rejects :
    decodeFrame resetView [] = .error .empty ∧ decodeFrame resetView [0x03] = .error .noStartMarker ∧
    decodeFrame resetView [0x02, 0x80, 0x04, 0x00, 0xDE] = .error .truncated ∧
    decodeFrame resetView [0x02, 0x80, 0x2D, 0x01, 0x00] = .error .lengthOverflow ∧
    decodeFrame resetView [0x02, 0x80, 0x01, 0x00, 0x11, 0x95, 0x03] = .error .checksumMismatch ∧
    decodeFrame resetView [0x02, 0x80, 0x01, 0x00, 0x11, 0x94, 0x04] = .error .terminatorMismatch ∧
    decode resetView [0x02, 0x80, 0x01, 0x00, 0x11, 0x94, 0x04] = .ok (.rxIdle 0x02, [0x80, 0x01, 0x00, 0x11, 0x94, 0x04]) := by decide
/-- The table's numbering: the first byte in bits 7 to 0 (V13). -/
theorem test_tableWord : decodeTableWord 48 0x030100_00FF02 = some (.frameInvalid []) := by decide
theorem test_fetchWord :
    (nextState? (step (State.reset.withFetchWord 48 0x030100_00FF02))).map (fun t => (t.sig, t.outputs)) = some (true, [.raiseSignal]) := by
  decide

/-! ## The codec -/

/-- V4, V6. -/
theorem test_csum8 : csum8 [0x02, 0x80, 0x02, 0x00, 0xFF, 0xFF] = 0x82 ∧ csum8 [0x02, 0xFF, 0x00, 0x00] = 0x01 := by decide
/-- V12. -/
theorem test_encode : encode Config.T (.frameReceive [0x02, 0x03, 0x02]) = some [0x02, 0x80, 0x03, 0x00, 0x02, 0x03, 0x02, 0x8C, 0x03] := by
  decide
/-- V19. -/
theorem test_encodeAck : (after (.encodeAck 0xFF false) State.reset).map (·.outputs) =
    some [.value [0x02, 0xFF, 0x01, 0x00, 0x01, 0x03, 0x03]] := by decide
/-- V10. -/
theorem test_execEncode : (after (.encode 0x3A []) State.reset).map (·.outputs) = some [.value [0x02, 0x3A, 0x00, 0x00, 0x3C, 0x03]] := by
  decide

/-! ## The receiver -/

/-- V20, first byte. -/
theorem test_rxIdle : (after (.rxIdle 0x02) State.reset).map (fun t => (t.rx.state, t.rx.csum)) = some (.awaitCmd, 0x02) := by decide
/-- V20, second byte. -/
theorem test_rxCmd_receive : (after (.rxCmd 0x80) atCmd).map (·.rx) = some atLenLo.rx := by decide
/-- V40. -/
theorem test_rxCmd_answer :
    (after (.rxCmd 0x3A) { waiting 16 with rx := atCmd.rx }).map (fun t => (t.rx.type, t.rx.capacity, t.pend.answerSequence)) =
      some (.answer, 16, 1) := by decide
/-- V20, third byte. -/
theorem test_rxLenLo : (after (.rxLenLo 0x04) atLenLo).map (fun t => (t.rx.length, t.rx.csum, t.rx.state)) =
    some (4, 0x86, .awaitLenHi) := by decide
/-- V23. -/
theorem test_rxLenHi_over : (after (.rxLenHi 0x01) (atLenHi 0x2D 0xAF)).map (fun t => (t.rx.length, t.rx.state, t.outputs)) =
    some (301, .idle, [.log .lengthOverflow]) := by decide
/-- V24's header: 300 passes. -/
theorem test_rxLenHi_max : (after (.rxLenHi 0x01) (atLenHi 0x2C 0xAE)).map (fun t => (t.rx.length, t.rx.state)) =
    some (300, .awaitData) := by decide
/-- V20, eighth byte. -/
theorem test_rxData : (after (.rxData 0xEF) (atData 4 3 0xCF)).map (fun t => (t.rx.counter, t.rx.csum, t.rx.state, t.rxbuf)) =
    some (4, 0xBE, .awaitCsum, [(3, 0xEF)]) := by decide
/-- V46: a byte at the capacity is dropped and counted. -/
theorem test_rxData_dropped : (after (.rxData 0x42) (answering 1)).map (fun t => (t.rx.counter, t.rx.csum, t.rx.state, t.ans)) =
    some (2, 0xC1, .awaitCsum, [(0, 0x41)]) := by decide
/-- V26's form. -/
theorem test_rxCsum : (after (.rxCsum 0x95) (atFooter .awaitCsum)).map (fun t => (t.rx.state, t.outputs)) =
    some (.idle, [.log .checksumMismatch, .write [0x02, 0x80, 0x01, 0x00, 0x01, 0x84, 0x03]]) := by decide
/-- V29. -/
theorem test_rxTerm_bad : (after (.rxTerm 0x04) (atFooter .awaitTerm)).map (fun t => (t.rx.state, t.outputs)) =
    some (.idle, [.log .terminatorMismatch]) := by decide
/-- V20's end, with the payload of V29. -/
theorem test_rxTerm_good : (after (.rxTerm 0x03) (atFooter .awaitTerm)).map (fun t => (t.rx.state, t.outputs)) =
    some (.idle, [.onReceive [0x11] 1]) := by decide
/-- V35. -/
theorem test_feed : (after (.feed 0x02) atCmd).map (fun t => (t.rx.state, t.outputs)) = some (.idle, [.log .unknownCommand]) := by decide
/-- An arm that is not selected is no step. -/
theorem test_armNotSelected : exec (.rxCsum 0x94) (atFooter .awaitTerm) = .refused .armNotSelected := rfl

/-! ## The frame rows -/

/-- V42, with a shorter payload. -/
theorem test_frameAnswer : (after (.frameAnswer 0x3A [0x41, 0x42]) (waiting 16)).map (fun t => (t.ans, t.pend.answerLength, t.sig, t.outputs)) =
    some ([(0, 0x41), (1, 0x42)], 2, true, [.raiseSignal]) := by decide
/-- V46, with a shorter payload. -/
theorem test_frameAnswer_truncated : (after (.frameAnswer 0x3A [0x41, 0x42]) (waiting 1)).map (fun t => (t.ans, t.pend.answerLength)) =
    some ([(0, 0x41)], 2) := by decide
/-- V28. -/
theorem test_frameReceive : (after (.frameReceive [0x02, 0x03, 0x02]) State.reset).map (fun t => (t.rx.state, t.rxbuf, t.outputs)) =
    some (.idle, [(0, 0x02), (1, 0x03), (2, 0x02)], [.onReceive [0x02, 0x03, 0x02] 3]) := by decide
/-- V44. -/
theorem test_frameInvalid : (after (.frameInvalid []) (waiting 16)).map (fun t => (t.pend.answerSequence, t.pend.answerLength, t.sig)) =
    some (1, 0, true) := by decide
/-- V47. -/
theorem test_frameInvalid_stray : (after (.frameInvalid []) State.reset).map (fun t => (t.pend.answerSequence, t.sig)) =
    some (0, true) := by decide
/-- V22. -/
theorem test_frameUnknown : (after (.frameUnknown 0x3A) State.reset).map (fun t => (t.rx.state, t.rx.csum, t.outputs)) =
    some (.idle, 0x3C, [.log .unknownCommand]) := by decide
/-- V50's request frame. -/
theorem test_frameCommand : (after (.frameCommand 0x10 [0x07]) State.reset).map (·.outputs) =
    some [.write [0x02, 0x10, 0x01, 0x00, 0x07, 0x1A, 0x03]] := by decide
/-- V10. -/
theorem test_cmdVersion : (after .cmdVersion State.reset).map (·.outputs) = some [.write [0x02, 0x3A, 0x00, 0x00, 0x3C, 0x03]] := by decide
/-- V50's answer frame. -/
theorem test_frameAck :
    (after (.frameAck 0x10) { waiting 1 with pend := { (waiting 1).pend with command := 0x10 } }).map (fun t => (t.ans, t.pend.answerLength)) =
      some ([(0, 0x00)], 1) := by decide
/-- V18. -/
theorem test_frameNack : (after (.frameNack 0x10) State.reset).map (·.outputs) =
    some [.write [0x02, 0x10, 0x01, 0x00, 0x01, 0x14, 0x03]] := by decide

/-! ## The router -/

/-- V48. -/
theorem test_dispAnswer_stale :
    (after .dispAnswer { terminating .answer with pend := { (waiting 16).pend with sendSequence := 2, answerSequence := 1 } }).map
      (fun t => (t.pend.answerLength, t.sig, t.outputs)) = some (0, false, [.log .staleAnswer]) := by decide
/-- V45. -/
theorem test_dispAnswer : (after .dispAnswer (terminating .answer)).map (fun t => (t.sig, t.outputs)) = some (true, [.raiseSignal]) := by
  decide
/-- V44. -/
theorem test_dispInvalid : (after .dispInvalid (terminating .invalid)).map (fun t => (t.sig, t.pend.answerLength)) = some (true, 0) := by decide
/-- V27. -/
theorem test_dispReceive : (after .dispReceive (terminating .receive)).map (fun t => (t.sig, t.outputs)) = some (false, [.onReceive [] 0]) := by
  decide
/-- DISPATCH is the arm of the type (rule R170), and there is none elsewhere. -/
theorem test_dispatch : exec .dispatch (terminating .receive) = exec .dispReceive (terminating .receive) ∧
    exec .dispatch State.reset = .refused .notAtTerminator := ⟨rfl, rfl⟩

/-! ## The correlator -/

/-- P1, first line. -/
theorem test_swAcq : (after (.swAcq 0x3A [] 16 false) State.reset).map (fun t => (t.lock, t.co.stage, t.rq.capacity)) =
    some (true, .locked, 16) := by decide
/-- V55, V58. -/
theorem test_swAcq_refused : exec (.swAcq 0x3A [] 16 false) locked = .refused .lockHeld ∧
    exec (.swAcq 0x3A [] 301 false) State.reset = .refused .requestOutOfRange := ⟨rfl, rfl⟩
/-- P1, second line. -/
theorem test_swPop : (after .swPop locked).map (fun t => (t.pend.active, t.pend.command, t.pend.answerCapacity, t.co.stage)) =
    some (true, 0x3A, 16, .populated) := by decide
/-- P1, third line. -/
theorem test_swTx : (after (.swTx true) (atStage .populated)).map (fun t => (t.co.stage, t.outputs)) =
    some (.wait, [.write [0x02, 0x3A, 0x00, 0x00, 0x3C, 0x03]]) := by decide
/-- P10. -/
theorem test_swTx_fail : (after (.swTx false) (atStage .populated)).map (fun t => t.co) = some { stage := .exit, result := .fail } := by decide
/-- P8, the stale wake. -/
theorem test_swWake_stale : (after .swWake { waiting 16 with sig := true }).map (fun t => (t.sig, t.co.stage)) = some (false, .wait) := by decide
/-- P1, the wake. -/
theorem test_swWake :
    (after .swWake { waiting 16 with sig := true, pend := { (waiting 16).pend with answerSequence := 1 } }).map (fun t => (t.sig, t.co)) =
      some (false, { stage := .exit, result := .ok }) := by decide
/-- V56. -/
theorem test_swSpurious : after .swSpurious (waiting 16) = some (waiting 16) := by decide
/-- P9. -/
theorem test_swSpurious_hazard :
    (after .swSpurious { waiting 16 with pend := { (waiting 16).pend with answerSequence := 1 } }).map (·.co) =
      some { stage := .exit, result := .ok } := by decide
/-- V53. -/
theorem test_swTimeout : (after .swTimeout (waiting 16)).map (·.co) = some { stage := .exit, result := .fail } := by decide
/-- V57. -/
theorem test_swTimeout_latched : exec .swTimeout { waiting 16 with sig := true } = .refused .signalLatched := rfl
/-- V59. -/
theorem test_swExit_wrap :
    (after .swExit { atStage .exit with pend := { (waiting 16).pend with sendSequence := 0xFFFFFFFF } }).map
      (fun t => (t.pend.sendSequence, t.pend.active, t.lock, t.co.stage)) = some (0, false, false, .idle) := by decide
/-- V51's judgement. -/
theorem test_swExit_ack :
    (after .swExit { atStage .exit with rq := { (waiting 1).rq with ack := true }, ans := [(0, 0x01)] }).map (·.outputs) =
      some [.ret .fail 0] := by decide
/-- P1 with a shorter payload, as one operation. -/
theorem test_sendAndWait :
    (after (.sendAndWait 0x3A [] 16 (plan (feeds 0x3A [0x41, 0x42] ++ [.wake]))) State.reset).map
        (fun t => (t.outputs, t.pend.sendSequence, t.ans)) =
      some ([.write [0x02, 0x3A, 0x00, 0x00, 0x3C, 0x03], .raiseSignal, .ret .ok 2], 2, [(0, 0x41), (1, 0x42)]) := by decide
/-- P9's beginning: the answer comes before the frame is written (V61), and no move ends the wait. -/
theorem test_sendAndWait_early :
    (after (.sendAndWait 0x3A [] 16 { plan [] with afterPop := encodeFrame Config.T 0x3A [0x41] })
      State.reset).map (·.outputs) =
      some [.raiseSignal, .write [0x02, 0x3A, 0x00, 0x00, 0x3C, 0x03], .ret .ok 1] := by decide
/-- V50. -/
theorem test_sendAndWaitAck :
    (after (.sendAndWaitAck 0x10 [0x07] (plan (feeds 0x10 [0x00] ++ [.wake]))) State.reset).map (·.outputs) =
      some [.write [0x02, 0x10, 0x01, 0x00, 0x07, 0x1A, 0x03], .raiseSignal, .ret .ok 1] := by decide
/-- V53. -/
theorem test_sendAndWaitAck_timeout :
    (after (.sendAndWaitAck 0x10 [0x07] (plan [.timeout])) State.reset).map (·.outputs) =
      some [.write [0x02, 0x10, 0x01, 0x00, 0x07, 0x1A, 0x03], .ret .fail 0] := by decide

/-! ## The environment -/

theorem test_csum8_op : (after (.csum8 [0xFF, 0x01]) State.reset).map (·.outputs) = some [.value [0x00]] := by decide
theorem test_hostRead : (after (.hostRead 0) (answering 16)).map (·.outputs) = some [.hostRead 0 0x41] := by decide
theorem test_hostRead_outside : exec (.hostRead 300) State.reset = .fault (.noSuchAnswerByte 300) := rfl
/-- V72. -/
theorem test_reset : (after .reset (waiting 16)).map (fun t => (t.lock, t.pend.active, t.pend.sendSequence, t.co.stage, t.outputs)) =
    some (false, false, 1, .idle, []) := by decide
theorem test_write : (after (.write [0x02, 0x3A, 0x00, 0x00, 0x3C, 0x03] false) State.reset).map (·.outputs) =
    some [.write [0x02, 0x3A, 0x00, 0x00, 0x3C, 0x03]] := by decide
theorem test_raiseSignal : (after .raiseSignal State.reset).map (fun t => (t.sig, t.outputs)) = some (true, [.raiseSignal]) := by decide
theorem test_onReceive : (after (.onReceive [0x11] 1) State.reset).map (·.outputs) = some [.onReceive [0x11] 1] := by decide
theorem test_log : (after (.log .staleAnswer) State.reset).map (·.outputs) = some [.log .staleAnswer] ∧
    exec (.log .timeout) State.reset = .refused .kindNotLogged := ⟨by decide, rfl⟩
/-- V55: the second caller's request waits in the schedule. -/
theorem test_step_waits :
    (nextState? (step { locked with schedule := [.op (.swAcq 0x3A [] 16 false), .op .swPop] })).map (fun t => (t.co.stage, t.schedule)) =
      some (.populated, [.op (.swAcq 0x3A [] 16 false)]) := by decide

/-- V53 by the machine alone (rule R200): with no signal and nothing scheduled the wait times out. -/
theorem test_step_timeout : nextState? (step (waiting 16)) = some { waiting 16 with co := { stage := .exit, result := .fail } } := by decide
/-- P10's and P1's write, left to the environment: the frame is written whatever the transport answers. -/
theorem test_step_tx : (nextState? (step (atStage .populated))).map (·.outputs) = some [.write [0x02, 0x3A, 0x00, 0x00, 0x3C, 0x03]] := by
  show (nextState? (exec (.swTx (Config.writeResult 0)) (drawChoice (atStage .populated)))).map (·.outputs) = _
  cases Config.writeResult 0 <;> decide

/-! ## The invariant holds in states a run passes through -/

theorem inv_reset : Inv State.reset := by constructor <;> decide
theorem inv_atLenHi : Inv (atLenHi 4 0x86) := by constructor <;> decide
theorem inv_atData : Inv (atData 300 299 0) := by constructor <;> decide
theorem inv_atFooter : Inv (atFooter .awaitTerm) := by constructor <;> decide
theorem inv_waiting : Inv (waiting 16) := by constructor <;> decide
theorem inv_waiting_one : Inv (waiting 1) := by constructor <;> decide
theorem inv_waiting_none : Inv (waiting 0) := by constructor <;> decide
theorem inv_answering : Inv (answering 16) := by constructor <;> decide
theorem inv_answering_full : Inv (answering 1) := by constructor <;> decide
theorem inv_locked : Inv locked := by constructor <;> decide
theorem inv_fed : Inv { waiting 16 with schedule := [.bytes [0x02, 0x3A, 0x01, 0x00, 0x41, 0x7E, 0x03]] } := by constructor <;> decide

/-! ## Witnesses: for every statement with hypotheses, states and operands that meet them, clause by clause, at boundary values -/

theorem witness_EncodeBuildsHeaderPayloadFooter :
    (List.replicate 65535 (0 : Byte)).length ≤ 65535 ∧ ([] : List Byte).length ≤ 65535 ∧
    (∃ body : List Byte, body = [State.reset.cfg.sof, 0x55, BitVec.ofNat 8 (1 % 256), BitVec.ofNat 8 (1 / 256)] ++ [0x07]) ∧
    65535 < (List.replicate 65536 (0 : Byte)).length := ⟨length_longest, by decide, ⟨_, rfl⟩, length_long⟩

theorem witness_EncodeAckBuildsTheSevenByteFrame :
    (0x00 : Byte) = (if true then 0x00 else 0x01) ∧ (0x01 : Byte) = (if false then 0x00 else 0x01) := by decide

theorem witness_SentFramesDecodeToTheirRows :
    encode Config.T (.frameAck 0xFF) = some [0x02, 0xFF, 0x01, 0x00, 0x00, 0x02, 0x03] ∧
    encode Config.T (.frameNack 0xFF) = some [0x02, 0xFF, 0x01, 0x00, 0x01, 0x03, 0x03] ∧
    encode Config.T .cmdVersion = some [0x02, 0x3A, 0x00, 0x00, 0x3C, 0x03] ∧
    (∃ bs, (List.replicate 65535 (0 : Byte)).length ≤ 65535 ∧
      encode Config.T (.frameCommand 0x55 (List.replicate 65535 0)) = some bs) :=
  ⟨by decide, by decide, by decide, ⟨_, length_longest, rfl⟩⟩

theorem witness_ReceivedFramesDecodeToTheirRows :
    (∃ bs, (waiting 16).view.rxState = .idle ∧ (waiting 16).view.awaited = some 0x3A ∧
      (List.replicate 16 (0 : Byte)).length ≤ ((waiting 16).view.cfg.maxLen 0x3A).toNat ∧
      encode (waiting 16).view.cfg (.frameAnswer 0x3A (List.replicate 16 0)) = some bs) ∧
    (∃ bs, resetView.rxState = .idle ∧ resetView.awaited ≠ some resetView.cfg.cmdReceive ∧
      (List.replicate 300 (0 : Byte)).length ≤ (resetView.cfg.maxLen resetView.cfg.cmdReceive).toNat ∧
      encode resetView.cfg (.frameReceive (List.replicate 300 0)) = some bs) ∧
    (∃ bs, resetView.awaited ≠ some resetView.cfg.cmdInvalid ∧ resetView.cfg.cmdInvalid ≠ resetView.cfg.cmdReceive ∧
      ([] : List Byte).length ≤ (resetView.cfg.maxLen resetView.cfg.cmdInvalid).toNat ∧
      encode resetView.cfg (.frameInvalid []) = some bs) ∧
    (∃ bs, resetView.awaited ≠ some 0x3A ∧ (0x3A : Byte) ≠ resetView.cfg.cmdReceive ∧ (0x3A : Byte) ≠ resetView.cfg.cmdInvalid ∧
      encode resetView.cfg (.frameUnknown 0x3A) = some bs) ∧
    (0x03 : Byte) ≠ resetView.cfg.sof ∧
    atCmd.view.rxState = .awaitCmd ∧ atLenLo.view.rxState = .awaitLenLo ∧ (atLenHi 4 0x86).view.rxState = .awaitLenHi ∧
    (atData 4 0 0x86).view.rxState = .awaitData ∧ (atFooter .awaitCsum).view.rxState = .awaitCsum ∧
    (atFooter .awaitTerm).view.rxState = .awaitTerm :=
  ⟨⟨_, by decide, by decide, by decide, rfl⟩, ⟨_, by decide, by decide, length_at_most (by decide), rfl⟩, ⟨_, by decide, by decide, by decide, rfl⟩,
    ⟨_, by decide, by decide, by decide, rfl⟩, by decide, rfl, rfl, rfl, rfl, rfl, rfl⟩

theorem witness_EveryByteOfTheStreamDecodes : ([0x55] : List Byte) ≠ [] := by decide

theorem witness_AFetchedFrameDoesWhatItsBytesDo :
    decode State.reset.view [0x02, 0xFF, 0x00, 0x00, 0x01, 0x03, 0x55] = .ok (.frameInvalid [], [0x55]) ∧
    decode (atData 4 0 0x86).view [0xDE, 0xAD] = .ok (.rxData 0xDE, [0xAD]) := by decide

theorem witness_StepRunsTheScheduledOperation :
    decode (scheduled [.bytes [0x55, 0x02], .op .reset]).view [0x55, 0x02] = .ok (.rxIdle 0x55, [0x02]) ∧
    (isOwnStep .reset = true ∧ enabled (scheduled [.op .reset]) .reset = true) ∧
    ((isOwnStep .swPop && enabled (scheduled [.op .swPop, .op .reset]) .swPop) = false) ∧
    (∀ x ∈ ([] : List Input), ∃ i, x = .op i ∧ (isOwnStep i && enabled (waiting 16) i) = false) ∧
    (∀ x ∈ [Input.op .swPop, .op .swWake], ∃ i, x = .op i ∧
      (isOwnStep i && enabled { waiting 16 with schedule := [.op .swPop, .op .swWake] } i) = false) ∧
    (∃ more, decode State.reset.view (tableBytes 16 0x3A02) = .ok (.frameUnknown 0x3A, more)) :=
  ⟨by decide, by decide, by decide, by simp, by intro x hx; simp at hx; rcases hx with rfl | rfl <;> exact ⟨_, rfl, by decide⟩, _, rfl⟩

theorem witness_StepKeepsTheInvariant :
    ∃ t, Inv { waiting 16 with schedule := [.bytes [0x02, 0x3A, 0x01, 0x00, 0x41, 0x7E, 0x03]] } ∧
      step { waiting 16 with schedule := [.bytes [0x02, 0x3A, 0x01, 0x00, 0x41, 0x7E, 0x03]] } = .next t := ⟨_, inv_fed, rfl⟩

theorem witness_ResetHasTheInvariant : Config.T.wf = true := by decide

theorem witness_FeedIsTheSelectedArm :
    State.reset.rx.state = .idle ∧ atCmd.rx.state = .awaitCmd ∧ atLenLo.rx.state = .awaitLenLo ∧
    (atLenHi 4 0x86).rx.state = .awaitLenHi ∧ (atData 4 0 0x86).rx.state = .awaitData ∧
    (atFooter .awaitCsum).rx.state = .awaitCsum ∧ (atFooter .awaitTerm).rx.state = .awaitTerm ∧ atCmd.rx.state ≠ .idle ∧
    ∀ st ∈ [RxState.awaitCmd, .awaitLenLo, .awaitLenHi, .awaitData, .awaitCsum, .awaitTerm], State.reset.rx.state ≠ st := by decide

theorem witness_IdleActsOnTheStartMarkerOnly :
    State.reset.rx.state = .idle ∧ State.reset.cfg.sof ∉ ([0x00, 0x03, 0xFF, 0x55] : List Byte) := by decide

theorem witness_ClassificationOrder :
    ({ waiting 16 with rx := atCmd.rx }.rx.state = .awaitCmd ∧ { waiting 16 with rx := atCmd.rx }.pend.active = true ∧
      (0x3A : Byte) = { waiting 16 with rx := atCmd.rx }.pend.command) ∧
    (atCmd.rx.state = .awaitCmd ∧ ¬(atCmd.pend.active = true ∧ (0x80 : Byte) = atCmd.pend.command) ∧ (0x80 : Byte) = atCmd.cfg.cmdReceive) ∧
    (¬(atCmd.pend.active = true ∧ (0xFF : Byte) = atCmd.pend.command) ∧ (0xFF : Byte) ≠ atCmd.cfg.cmdReceive ∧
      (0xFF : Byte) = atCmd.cfg.cmdInvalid) ∧
    (¬(atCmd.pend.active = true ∧ (0x00 : Byte) = atCmd.pend.command) ∧ (0x00 : Byte) ≠ atCmd.cfg.cmdReceive ∧
      (0x00 : Byte) ≠ atCmd.cfg.cmdInvalid) := by decide

theorem witness_CommandByteEffect : atCmd.rx.state = .awaitCmd := rfl

theorem witness_LengthLowByteEffect : atLenLo.rx.state = .awaitLenLo := rfl

theorem witness_LengthHighByteEffect :
    ((atLenHi 0x2D 0xAF).rx.state = .awaitLenHi ∧ (301 : Half) = BitVec.ofNat 16 ((0x01 : Byte).toNat * 256 + (atLenHi 0x2D 0xAF).rx.length.toNat % 256) ∧
      (atLenHi 0x2D 0xAF).cfg.maxLen (atLenHi 0x2D 0xAF).rx.command < 301) ∧
    ((300 : Half) = BitVec.ofNat 16 ((0x01 : Byte).toNat * 256 + (atLenHi 0x2C 0xAE).rx.length.toNat % 256) ∧
      ¬ (atLenHi 0x2C 0xAE).cfg.maxLen (atLenHi 0x2C 0xAE).rx.command < 300) ∧
    (0 : Half) = BitVec.ofNat 16 ((0x00 : Byte).toNat * 256 + (atLenHi 0 0x82).rx.length.toNat % 256) := by decide

theorem witness_PayloadByteEffect :
    (Inv (atData 300 299 0) ∧ (atData 300 299 0).rx.state = .awaitData ∧ (atData 300 299 0).rx.counter < (atData 300 299 0).rx.capacity ∧
      (atData 300 299 0).rx.counter + 1 = (atData 300 299 0).rx.length) ∧
    (Inv (answering 1) ∧ (answering 1).rx.state = .awaitData ∧ ¬ (answering 1).rx.counter < (answering 1).rx.capacity) :=
  ⟨⟨inv_atData, by decide, by decide, by decide⟩, inv_answering_full, by decide, by decide⟩

theorem witness_ChecksumByteEffect :
    (atFooter .awaitCsum).rx.state = .awaitCsum ∧ (0x94 : Byte) = (atFooter .awaitCsum).rx.csum ∧
    (0x95 : Byte) ≠ (atFooter .awaitCsum).rx.csum := by decide

theorem witness_TerminatorByteEffect :
    (atFooter .awaitTerm).rx.state = .awaitTerm ∧ ((0x03 : Byte) = (atFooter .awaitTerm).cfg.eof ∧ (atFooter .awaitTerm).rx.type ≠ .none) ∧
    (0x02 : Byte) ≠ (atFooter .awaitTerm).cfg.eof := by decide

theorem witness_RunningChecksumIsCsum :
    State.reset.rx.state = .idle ∧ classify State.reset.cfg State.reset.awaited 0x80 ≠ .none ∧
    300 ≤ (State.reset.cfg.maxLen 0x80).toNat ∧ (List.replicate 300 (0xAA : Byte)).length ≤ 300 ∧ ([] : List Byte).length ≤ 300 :=
  ⟨rfl, by decide, by decide, length_at_most (by decide), by decide⟩

theorem witness_AChangedPayloadByteIsAlwaysCaught :
    (State.reset.rx.state = .idle ∧ classify State.reset.cfg State.reset.awaited 0x80 ≠ .none ∧
      ([0xDE] ++ (0xAD : Byte) :: List.replicate 298 0xBE).length ≤ (State.reset.cfg.maxLen 0x80).toNat ∧ (0xAD : Byte) ≠ 0xAC) ∧
    ((0x82 : Byte) = csum8 (frameBody State.reset.cfg 0x80 []) ∧ (0x83 : Byte) ≠ csum8 (frameBody State.reset.cfg 0x80 []) ∧
      ([] : List Byte).length ≤ (State.reset.cfg.maxLen 0x80).toNat) :=
  ⟨⟨rfl, by decide, by simp only [List.length_append, List.length_cons, List.length_replicate]; decide, by decide⟩, by decide⟩

theorem witness_FrameRowsAreTheirBytesFed :
    (List.replicate 65535 (0 : Byte)).length ≤ 65535 ∧ 65535 < (List.replicate 65536 (0 : Byte)).length := ⟨length_longest, length_long⟩

theorem witness_AnswerFrameReachesTheWaiter :
    Inv (waiting 1) ∧ (waiting 1).rx.state = .idle ∧ (waiting 1).awaited = some 0x3A ∧
    (List.replicate 16 (0x41 : Byte)).length ≤ ((waiting 1).cfg.maxLen 0x3A).toNat ∧ ([] : List Byte).length ≤ ((waiting 1).cfg.maxLen 0x3A).toNat :=
  ⟨inv_waiting_one, by decide, by decide, by decide, by decide⟩

theorem witness_ReceiveFrameIsDelivered :
    Inv (waiting 16) ∧ (waiting 16).rx.state = .idle ∧ (waiting 16).awaited ≠ some (waiting 16).cfg.cmdReceive ∧
    (List.replicate 300 (0x41 : Byte)).length ≤ ((waiting 16).cfg.maxLen (waiting 16).cfg.cmdReceive).toNat :=
  ⟨inv_waiting, by decide, by decide, length_at_most (by decide)⟩

theorem witness_InvalidFrameCompletesWithLengthZero :
    (waiting 16).rx.state = .idle ∧ (waiting 16).awaited ≠ some (waiting 16).cfg.cmdInvalid ∧
    (waiting 16).cfg.cmdInvalid ≠ (waiting 16).cfg.cmdReceive ∧
    ([] : List Byte).length ≤ ((waiting 16).cfg.maxLen (waiting 16).cfg.cmdInvalid).toNat ∧ State.reset.pend.active = false := by decide

theorem witness_UnknownFrameIsAbandoned :
    (waiting 16).rx.state = .idle ∧ ¬((waiting 16).pend.active = true ∧ (0x10 : Byte) = (waiting 16).pend.command) ∧
    (0x10 : Byte) ≠ (waiting 16).cfg.cmdReceive ∧ (0x10 : Byte) ≠ (waiting 16).cfg.cmdInvalid ∧
    (State.reset.rx.state = .idle ∧ ¬(State.reset.pend.active = true ∧ (0x00 : Byte) = State.reset.pend.command)) := by decide

theorem witness_AckFrameIsAOneByteAnswer :
    (Inv (waiting 1) ∧ (waiting 1).rx.state = .idle ∧ (waiting 1).awaited = some 0x3A ∧ 1 ≤ ((waiting 1).cfg.maxLen 0x3A).toNat ∧
      1 ≤ (waiting 1).pend.answerCapacity.toNat) ∧
    (Inv (waiting 0) ∧ (waiting 0).rx.state = .idle ∧ (waiting 0).awaited = some 0x3A ∧ ¬ 1 ≤ (waiting 0).pend.answerCapacity.toNat) :=
  ⟨⟨inv_waiting_one, by decide, by decide, by decide, by decide⟩, inv_waiting_none, by decide, by decide, by decide⟩

theorem witness_SentFrameRowsAreOneWrite :
    (List.replicate 65535 (0 : Byte)).length ≤ 65535 ∧
    (∃ body : List Byte, body = [State.reset.cfg.sof, 0x10, BitVec.ofNat 8 (1 % 256), BitVec.ofNat 8 (1 / 256)] ++ [0x07]) ∧
    65535 < (List.replicate 65536 (0 : Byte)).length := ⟨length_longest, ⟨_, rfl⟩, length_long⟩

theorem witness_DispatchIsTheArmOfTheType :
    (∀ t ∈ [FrameType.answer, .invalid, .receive, .none], (terminating t).rx.state = .awaitTerm ∧ (terminating t).rx.type = t) ∧
    State.reset.rx.state ≠ .awaitTerm ∧
    ¬((terminating .answer).rx.state = .awaitTerm ∧ (0x02 : Byte) = (terminating .answer).cfg.eof) ∧
    ¬((atFooter .awaitCsum).rx.state = .awaitTerm ∧ (0x03 : Byte) = (atFooter .awaitCsum).cfg.eof) := by decide

theorem witness_DispatchOfAnAnswer :
    (terminating .answer).rx.state = .awaitTerm ∧ (terminating .answer).rx.type = .answer ∧
    (terminating .answer).pend.answerSequence = (terminating .answer).pend.sendSequence := by decide

theorem witness_DispatchOfAnInvalid : (terminating .invalid).rx.state = .awaitTerm ∧ (terminating .invalid).rx.type = .invalid := by decide

theorem witness_DispatchOfAReceive : (terminating .receive).rx.state = .awaitTerm ∧ (terminating .receive).rx.type = .receive := by decide

theorem witness_AcquireEffect :
    (([] : List Byte).length ≤ 65535 ∧ (300 : Half) ≤ State.reset.cfg.ansMax ∧ State.reset.co.stage = .idle ∧ State.reset.lock = false) ∧
    ((300 : Half) ≤ locked.cfg.ansMax ∧ locked.lock = true) ∧
    State.reset.cfg.ansMax < (301 : Half) ∧ 65535 < (List.replicate 65536 (0 : Byte)).length :=
  ⟨by decide, by decide, by decide, length_long⟩

theorem witness_PopulateEffect : locked.co.stage = .locked := rfl

theorem witness_TransmitEffect :
    (atStage .populated).co.stage = .populated ∧ (atStage .populated).rq.payload.length ≤ 65535 ∧
    ∃ body : List Byte, body = [(atStage .populated).cfg.sof, (atStage .populated).rq.command,
      BitVec.ofNat 8 ((atStage .populated).rq.payload.length % 256), BitVec.ofNat 8 ((atStage .populated).rq.payload.length / 256)]
        ++ (atStage .populated).rq.payload := ⟨rfl, by decide, ⟨_, rfl⟩⟩

theorem witness_WakeEffect :
    (waiting 16).co.stage = .wait ∧ (waiting 16).sig = false ∧ { waiting 16 with sig := true }.co.stage = .wait ∧
    { waiting 16 with sig := true }.sig = true := by decide

theorem witness_TimeoutEffect :
    (waiting 16).co.stage = .wait ∧ (waiting 16).sig = false ∧ { waiting 16 with sig := true }.sig = true := by decide

theorem witness_ExitEffect :
    (atStage .exit).co.stage = .exit ∧
    Status.ok = (if (atStage .exit).rq.ack = true ∧ (atStage .exit).co.result = .ok ∧ (atStage .exit).readAns 0 ≠ 0x00 then .fail
      else (atStage .exit).co.result) := ⟨rfl, rfl⟩

theorem witness_StageTransitionTable :
    (locked.co.stage ≠ .populated ∧ locked.co.stage ≠ .wait ∧ locked.co.stage ≠ .exit ∧ State.reset.co.stage ≠ .locked) ∧
    (∃ t, exec (.swAcq 0x3A [] 16 false) State.reset = .next t ∧ t.co.stage ≠ State.reset.co.stage) ∧
    (∃ t, exec .swPop locked = .next t ∧ t.co.stage ≠ locked.co.stage) ∧
    (∃ t, exec (.swTx true) (atStage .populated) = .next t ∧ t.co.stage ≠ (atStage .populated).co.stage) ∧
    (∃ t, exec .swTimeout (waiting 16) = .next t ∧ t.co.stage ≠ (waiting 16).co.stage) ∧
    (∃ t, exec .swExit (atStage .exit) = .next t ∧ t.co.stage ≠ (atStage .exit).co.stage) :=
  ⟨by decide, ⟨_, rfl, by decide⟩, ⟨_, rfl, by decide⟩, ⟨_, rfl, by decide⟩, ⟨_, rfl, by decide⟩, ⟨_, rfl, by decide⟩⟩

theorem witness_OneExchangeAtATime :
    locked.lock = true ∧
    (∃ t, exec .swExit (atStage .exit) = .next t ∧ Instr.swExit ≠ .reset ∧ (atStage .exit).lock = true ∧ t.lock = false) ∧
    ∃ t, exec (.swAcq 0x3A [] 16 false) State.reset = .next t ∧ Instr.swAcq 0x3A [] 16 false ≠ .reset ∧ State.reset.lock = false ∧
      t.lock = true :=
  ⟨rfl, ⟨_, rfl, by decide, rfl, rfl⟩, _, rfl, by decide, rfl, rfl⟩

theorem witness_PseudoOperationsAreTheirSteps :
    State.reset.co.stage = .idle ∧ State.reset.lock = false ∧ ([] : List Byte).length ≤ 65535 ∧ (300 : Half) ≤ State.reset.cfg.ansMax ∧
    (1 : Half) ≤ State.reset.cfg.ansMax := by decide

/-- A fair run: an exchange that waits, times out and exits, then reads without end. -/
def fairStates (n : Nat) : State :=
  match n with
  | 0 => waiting 16
  | 1 => timeOut (waiting 16)
  | n + 2 => { exitExchange (timeOut (waiting 16)) with outputs := .ret .fail 0 :: List.replicate n (.value [0x00]) }

/-- Its steps. -/
def fairActs (n : Nat) : Instr :=
  match n with
  | 0 => .swTimeout
  | 1 => .swExit
  | _ + 2 => .csum8 []

theorem isRun_fairStates : IsRun fairStates fairActs := by
  intro n
  match n with
  | 0 => exact ⟨rfl, rfl⟩
  | 1 => exact ⟨rfl, rfl⟩
  | n + 2 =>
    refine ⟨rfl, ?_⟩
    simp [fairActs, fairStates, exec, execCsum8, State.emit, csum8, List.replicate_succ']

theorem weaklyFair_fairStates : WeaklyFair fairStates fairActs := by
  intro steps hs n h
  obtain ⟨i, hi, he⟩ := h (n + 2) (by omega)
  simp only [sequencerSteps, List.mem_cons, List.not_mem_nil, or_false] at hs
  rcases hs with rfl | rfl | rfl | rfl | rfl <;> simp only [List.mem_cons, List.not_mem_nil, or_false] at hi
  · subst hi; cases (show false = true from he)
  · rcases hi with rfl | rfl <;> cases (show false = true from he)
  · subst hi; cases (show false = true from he)
  · subst hi; cases (show false = true from he)
  · subst hi; cases (show false = true from he)

theorem witness_EveryExchangeReturns :
    (State.reset.co.stage = .idle ∧ State.reset.lock = false ∧ ([] : List Byte).length ≤ 65535 ∧
      (Instr.sendAndWait 0x3A [] 300 (plan []) = .sendAndWait 0x3A [] 300 (plan []) ∧ (300 : Half) ≤ State.reset.cfg.ansMax ∨
        Instr.sendAndWait 0x3A [] 300 (plan []) = .sendAndWaitAck 0x3A [] (plan []) ∧ 1 ≤ State.reset.cfg.ansMax) ∧
      { plan [] with ok := false }.ok = false) ∧
    (locked.schedule = [] ∧ locked.co.stage ≠ .idle) ∧
    (IsRun fairStates fairActs ∧ WeaklyFair fairStates fairActs ∧ Inv (fairStates 0) ∧ (fairStates 0).co.stage ≠ .idle) :=
  ⟨⟨rfl, rfl, by decide, .inl ⟨rfl, by decide⟩, rfl⟩, ⟨rfl, by decide⟩, isRun_fairStates, weaklyFair_fairStates, inv_waiting, by decide⟩

theorem witness_AnsweredExchangeReturnsTheAnswer :
    Inv State.reset ∧ State.reset.rx.state = .idle ∧ State.reset.co.stage = .idle ∧ State.reset.lock = false ∧
    ([] : List Byte).length ≤ 65535 ∧ (4 : Half) ≤ State.reset.cfg.ansMax ∧
    (List.replicate 16 (0x41 : Byte)).length ≤ (State.reset.cfg.maxLen 0x3A).toNat :=
  ⟨inv_reset, rfl, rfl, rfl, by decide, by decide, by decide⟩

theorem witness_AckExchangeJudgesTheByte :
    Inv State.reset ∧ State.reset.rx.state = .idle ∧ State.reset.co.stage = .idle ∧ State.reset.lock = false ∧
    ([0x07] : List Byte).length ≤ 65535 ∧ 1 ≤ State.reset.cfg.ansMax ∧ 1 ≤ (State.reset.cfg.maxLen 0x10).toNat :=
  ⟨inv_reset, rfl, rfl, rfl, by decide, by decide, by decide⟩

theorem witness_WriteFailureAndTimeoutReturnAlike :
    State.reset.co.stage = .idle ∧ State.reset.lock = false ∧ State.reset.sig = false ∧ ([] : List Byte).length ≤ 65535 ∧
    (300 : Half) ≤ State.reset.cfg.ansMax := by decide

/-- A failed exchange at its exit, its answer at the terminator: P4's race, one step later. -/
def lateAnswer : State := { terminating .answer with co := { stage := .exit, result := .fail } }

theorem witness_AnswerDispatchedAfterTheExitIsStale :
    lateAnswer.co.stage = .exit ∧ lateAnswer.pend.answerSequence = lateAnswer.pend.sendSequence ∧ lateAnswer.rx.state = .awaitTerm ∧
    lateAnswer.rx.type = .answer := by decide

theorem witness_FeederWritesOnlyItsOwn :
    ∃ t, Instr.feed 0x02 ∈ [Instr.feed 0x02, .rxIdle 0x02, .rxCmd 0x02, .rxLenLo 0x02, .rxLenHi 0x02, .rxData 0x02, .rxCsum 0x02, .rxTerm 0x02,
      .frameAnswer 0x3A [], .frameReceive [], .frameInvalid [], .frameUnknown 0x3A, .frameAck 0x3A, .dispatch, .dispAnswer, .dispInvalid,
      .dispReceive] ∧ exec (.feed 0x02) { waiting 16 with sig := true } = .next t := ⟨_, by decide, rfl⟩

theorem witness_CorrelatorWritesOnlyItsOwn :
    ∃ t, Instr.swPop ∈ [Instr.swAcq 0x3A [] 16 false, .swPop, .swTx false, .swWake, .swSpurious, .swTimeout, .swExit] ∧
      exec .swPop locked = .next t ∧ Instr.swPop ≠ .swExit := ⟨_, by decide, rfl, by decide⟩

theorem witness_FeedReadsOnlyItsInputs :
    { waiting 16 with sig := true, lock := false }.cfg = (waiting 16).cfg ∧ { waiting 16 with sig := true, lock := false }.rx = (waiting 16).rx ∧
    { waiting 16 with sig := true, lock := false }.pend = (waiting 16).pend ∧ { waiting 16 with sig := true, lock := false }.ans = (waiting 16).ans ∧
    { waiting 16 with sig := true, lock := false }.rxbuf = (waiting 16).rxbuf ∧ { waiting 16 with sig := true, lock := false }.epoch = (waiting 16).epoch ∧
    { waiting 16 with lock := false }.sig = (waiting 16).sig := ⟨rfl, rfl, rfl, rfl, rfl, rfl, rfl⟩

theorem witness_SequenceAndConfigurationWriters :
    (∃ t, exec .swExit (atStage .exit) = .next t ∧ Instr.swExit ≠ .reset ∧ t.pend.sendSequence ≠ (atStage .exit).pend.sendSequence) ∧
    (∃ t, exec (.rxCmd 0x3A) { waiting 16 with rx := atCmd.rx } = .next t ∧
      t.pend.answerSequence ≠ { waiting 16 with rx := atCmd.rx }.pend.answerSequence) ∧
    ∃ t, exec (.frameInvalid []) (waiting 16) = .next t ∧ t.pend.answerSequence ≠ (waiting 16).pend.answerSequence :=
  ⟨⟨_, rfl, by decide, by decide⟩, ⟨_, rfl, by decide⟩, _, rfl, by decide⟩

theorem witness_SignalIsRaisedByDispatchOnly :
    (∃ t, Instr.feed 0x03 ∈ [Instr.feed 0x03, .rxIdle 0x03, .rxCmd 0x03, .rxLenLo 0x03, .rxLenHi 0x03, .rxData 0x03, .rxCsum 0x03, .rxTerm 0x03] ∧
      exec (.feed 0x03) (terminating .receive) = .next t ∧ t.sig = false) ∧
    (∃ t, exec .swWake { waiting 16 with sig := true } = .next t ∧ t.sig = false) ∧
    ∃ t, isOwnStep (.rxTerm 0x03) = true ∧ exec (.rxTerm 0x03) (terminating .answer) = .next t ∧ (terminating .answer).sig = false ∧
      t.sig = true :=
  ⟨⟨_, by decide, rfl, rfl⟩, ⟨_, rfl, rfl⟩, _, rfl, rfl, rfl, rfl⟩

theorem witness_HostReadReturnsTheByte : 299 < State.reset.cfg.ansMax.toNat ∧ State.reset.cfg.ansMax.toNat ≤ 300 := by decide

theorem witness_EventEffects :
    ErrorKind.staleAnswer ∉ [ErrorKind.writeFailure, .timeout] ∧ ErrorKind.timeout ∈ [ErrorKind.writeFailure, .timeout] := by decide

end Sys2Proof.Tests
end

section
/-! The receiver (41_receiver.md): what FEED and its arms do, arm by arm, and the statements about them. -/

/-! ## Bytes and frames -/

namespace Sys2Proof

theorem setLowByte_eq_ofNat (v : Half) (b : Byte) : setLowByte v b = BitVec.ofNat 16 (v.toNat / 256 * 256 + b.toNat) := by
  apply BitVec.eq_of_toNat_eq
  rw [setLowByte, joinBytes_toNat, highByte_toNat, BitVec.toNat_ofNat]
  omega

theorem setHighByte_toNat (v : Half) (b : Byte) : (setHighByte v b).toNat = b.toNat * 256 + v.toNat % 256 := by
  rw [setHighByte, joinBytes_toNat, lowByte_toNat]

/-- The negative acknowledge, byte by byte (rule R123). -/
theorem encodeAckFrame_failure (cfg : Config) (c : Byte) :
    encodeAckFrame cfg c false = [cfg.sof, c, 0x01, 0x00, 0x01, cfg.sof + c + 2, cfg.eof] := by
  have hlo : lowByte (BitVec.ofNat 16 1) = 0x01 := by decide
  have hhi : highByte (BitVec.ofNat 16 1) = 0x00 := by decide
  have hsum : cfg.sof + (c + (0x01 + (0x00 + (0x01 + 0)))) = cfg.sof + c + 2 := by rw [BitVec.add_assoc]; rfl
  simp only [encodeAckFrame, encodeFrame, frameBody, frameHeader, ackByte, Config.ackFail, Bool.false_eq_true, if_false,
    List.length_singleton, List.cons_append, List.nil_append, csum8, hlo, hhi, hsum]

end Sys2Proof

namespace Sys2Proof.Machine

/-! ## The selected arm -/

theorem exec_feed (b : Byte) (s : State) : exec (.feed b) s = .next (feed b s) := rfl

/-- An arm that `rx.state` does not select is refused. -/
theorem exec_selectArm_of_ne {s : State} {st : RxState} (h : s.rx.state ≠ st) (b : Byte) :
    exec (selectArm st b) s = .refused .armNotSelected := by
  cases st <;>
    simp [selectArm, exec, execRxIdle, execRxCmd, execRxLenLo, execRxLenHi, execRxData, execRxCsum, execRxTerm, h]

section
variable {s : State} (b : Byte)

theorem feed_of_idle (h : s.rx.state = .idle) : feed b s = rxIdle b s := by simp [feed, h]
theorem feed_of_awaitCmd (h : s.rx.state = .awaitCmd) : feed b s = rxCmd b s := by simp [feed, h]
theorem feed_of_awaitLenLo (h : s.rx.state = .awaitLenLo) : feed b s = rxLenLo b s := by simp [feed, h]
theorem feed_of_awaitLenHi (h : s.rx.state = .awaitLenHi) : feed b s = rxLenHi b s := by simp [feed, h]
theorem feed_of_awaitData (h : s.rx.state = .awaitData) : feed b s = rxData b s := by simp [feed, h]
theorem feed_of_awaitCsum (h : s.rx.state = .awaitCsum) : feed b s = rxCsum b s := by simp [feed, h]
theorem feed_of_awaitTerm (h : s.rx.state = .awaitTerm) : feed b s = rxTerm b s := by simp [feed, h]

theorem exec_rxIdle (h : s.rx.state = .idle) : exec (.rxIdle b) s = .next (rxIdle b s) := by
  simp [exec, execRxIdle, h]
theorem exec_rxCmd (h : s.rx.state = .awaitCmd) : exec (.rxCmd b) s = .next (rxCmd b s) := by
  simp [exec, execRxCmd, h]
theorem exec_rxLenLo (h : s.rx.state = .awaitLenLo) : exec (.rxLenLo b) s = .next (rxLenLo b s) := by
  simp [exec, execRxLenLo, h]
theorem exec_rxData (h : s.rx.state = .awaitData) : exec (.rxData b) s = .next (rxData b s) := by
  simp [exec, execRxData, h]
theorem exec_rxCsum (h : s.rx.state = .awaitCsum) : exec (.rxCsum b) s = .next (rxCsum b s) := by
  simp [exec, execRxCsum, h]

end

/-- Settles O15: every listed pair is a receiver state with the arm it selects. -/
theorem feedIsTheSelectedArm : Obligations.FeedIsTheSelectedArm := by
  intro b s
  refine ⟨⟨_, exec_feed b s⟩, fun p hp => ?_⟩
  have harm : p.2 = selectArm p.1 b := by
    simp only [List.mem_cons, List.not_mem_nil, or_false] at hp
    rcases hp with rfl | rfl | rfl | rfl | rfl | rfl | rfl <;> rfl
  rw [harm]
  constructor
  · intro hs
    rw [← hs, exec_selectArm, exec_feed]
  · intro hs t
    rw [exec_selectArm_of_ne hs]
    simp

/-! ## RX.IDLE -/

theorem rxIdle_of_ne_sof {b : Byte} {s : State} (h : b ≠ s.cfg.sof) : rxIdle b s = s := if_neg h

theorem rxIdle_state {s : State} (hs : s.rx.state = .idle) (b : Byte) :
    (rxIdle b s).rx.state = if b = s.cfg.sof then .awaitCmd else .idle := by
  unfold rxIdle
  split
  · rfl
  · exact hs

/-- In `IDLE` a run of bytes without the start marker changes nothing (rule R103). -/
theorem feedAll_idle_of_sof_notMem {s : State} (hs : s.rx.state = .idle) {bs : List Byte} (h : s.cfg.sof ∉ bs) :
    feedAll bs s = s := by
  induction bs with
  | nil => rfl
  | cons b bs ih =>
    rw [List.mem_cons, not_or] at h
    obtain ⟨hb, hbs⟩ := h
    rw [feedAll_cons, feed_of_idle b hs, rxIdle_of_ne_sof (Ne.symm hb), ih hbs]

/-- Settles O16, the run of bytes by induction on it. -/
theorem idleActsOnTheStartMarkerOnly : Obligations.IdleActsOnTheStartMarkerOnly := by
  constructor
  · intro b s hs
    rw [exec_rxIdle b hs]
    rfl
  · intro s bs hs hbs
    rw [runAll_feeds, feedAll_idle_of_sof_notMem hs hbs]

/-! ## RX.CMD -/

theorem State.awaited_eq_some_iff {s : State} {c : Byte} :
    s.awaited = some c ↔ s.pend.active = true ∧ c = s.pend.command := by
  unfold State.awaited
  cases s.pend.active <;> simp [eq_comm]

/-- The classification in the terms of rule R144. -/
theorem State.classified_eq (s : State) (c : Byte) :
    s.classified c =
      if s.pend.active = true ∧ c = s.pend.command then .answer
      else if c = s.cfg.cmdReceive then .receive
      else if c = s.cfg.cmdInvalid then .invalid
      else .none := by
  simp only [State.classified, classify, State.awaited_eq_some_iff]

theorem State.classified_eq_none_iff {s : State} {c : Byte} :
    s.classified c = .none ↔
      ¬((s.pend.active = true ∧ c = s.pend.command) ∨ c = s.cfg.cmdReceive ∨ c = s.cfg.cmdInvalid) := by
  rw [State.classified_eq]
  split
  · next hp => simp [hp]
  · next hp =>
    split
    · next hr => simp [hr]
    · next hr =>
      split
      · next hi => simp [hi]
      · next hi => exact iff_of_true rfl (by simp only [hp, hr, hi, or_self, not_false_eq_true])

/-- A classified command byte marks the frame in the Receive Context (rule R142). -/
theorem rxCmd_rx_of_classified {b : Byte} {s : State} (h : s.classified b ≠ .none) :
    (rxCmd b s).rx = { s.rx with
      state := .awaitLenLo, command := b, csum := s.rx.csum + b
      type := s.classified b, target := targetOf (s.classified b), capacity := s.capacityOf (s.classified b) } := by
  unfold rxCmd
  cases hc : s.classified b with
  | none => exact absurd hc h
  | answer => rfl
  | receive => rfl
  | invalid => rfl

/-- An unknown command byte is recorded, folded and logged, and ends the frame (rules R142, R241). -/
theorem rxCmd_of_unknown {b : Byte} {s : State} (h : s.classified b = .none) :
    rxCmd b s = { s with
      rx := { s.rx with state := .idle, command := b, csum := s.rx.csum + b }
      outputs := s.outputs ++ [.log .unknownCommand] } := by
  unfold rxCmd
  rw [h]
  rfl

theorem rxCmd_state (b : Byte) (s : State) :
    (rxCmd b s).rx.state =
      if (s.pend.active = true ∧ b = s.pend.command) ∨ b = s.cfg.cmdReceive ∨ b = s.cfg.cmdInvalid then .awaitLenLo
      else .idle := by
  split
  · next h => rw [rxCmd_rx_of_classified fun hn => State.classified_eq_none_iff.mp hn h]
  · next h => rw [rxCmd_of_unknown (State.classified_eq_none_iff.mpr h)]

/-- A byte of the type `ty` is marked so and leads to the length. -/
theorem rxCmd_type_state {b : Byte} {s : State} {ty : FrameType} (h : s.classified b = ty) (hty : ty ≠ .none) :
    (rxCmd b s).rx.type = ty ∧ (rxCmd b s).rx.state = .awaitLenLo := by
  rw [rxCmd_rx_of_classified (h.trans_ne hty)]
  exact ⟨h, rfl⟩

/-- Settles O17: the order of the tests is the order of the classification. -/
theorem classificationOrder : Obligations.ClassificationOrder := by
  intro b s hs
  refine ⟨_, exec_rxCmd b hs, fun hp => ?_, fun ⟨hp, hr⟩ => ?_, fun ⟨hp, hr, hi⟩ => ?_, fun ⟨hp, hr, hi⟩ => ?_⟩
  · exact rxCmd_type_state (by rw [State.classified_eq, if_pos hp]) (by decide)
  · exact rxCmd_type_state (by rw [State.classified_eq, if_neg hp, if_pos hr]) (by decide)
  · exact rxCmd_type_state (by rw [State.classified_eq, if_neg hp, if_neg hr, if_pos hi]) (by decide)
  · have hc : s.classified b = .none := by rw [State.classified_eq, if_neg hp, if_neg hr, if_neg hi]
    rw [rxCmd_of_unknown hc]
    exact ⟨rfl, rfl⟩

/-! ## RX.LENLO and RX.LENHI -/

/-- Settles O19: the joined halves of the length as a number. -/
theorem lengthLowByteEffect : Obligations.LengthLowByteEffect := by
  intro b s hs
  rw [exec_rxLenLo b hs, rxLenLo, setLowByte_eq_ofNat]

theorem rxLenHi_state (b : Byte) (s : State) :
    (rxLenHi b s).rx.state =
      if (s.cfg.maxLen s.rx.command).toNat < b.toNat * 256 + s.rx.length.toNat % 256 then .idle
      else if b.toNat * 256 + s.rx.length.toNat % 256 = 0 then .awaitCsum else .awaitData := by
  have hzero : setHighByte s.rx.length b = 0 ↔ (setHighByte s.rx.length b).toNat = 0 := BitVec.toNat_eq
  simp only [← setHighByte_toNat, ← BitVec.lt_def, ← hzero, rxLenHi]
  split
  · rfl
  · split <;> rfl

/-! ## RX.DATA -/

/-- The invariant keeps the capacity of a frame within `ANS` when the frame goes there (rule R61). -/
theorem Inv.capacity_le_ansMax {s : State} (h : Inv s) (ht : s.rx.target = .ans) : s.rx.capacity ≤ s.cfg.ansMax := by
  simpa [capacityAllowed, ht] using h.capacity

/-- The invariant keeps the capacity of a frame within `RXBUF` when the frame goes there (rule R61). -/
theorem Inv.capacity_le_rxbufCap {s : State} (h : Inv s) (ht : s.rx.target = .rxbuf) : s.rx.capacity ≤ s.cfg.rxbufCap := by
  have hc : s.rx.capacity = s.cfg.rxbufCap := by simpa [capacityAllowed, ht] using h.capacity
  exact BitVec.le_of_eq hc

/-- A payload byte reaches `ANS` at the payload index, if the frame goes there and the index is below the capacity. -/
theorem readAns_storePayload {s : State} (hcap : s.rx.target = .ans → s.rx.capacity ≤ s.cfg.ansMax) (b : Byte) (k : Nat) :
    (storePayload b s).readAns k =
      if s.rx.counter < s.rx.capacity ∧ s.rx.target = .ans ∧ k = s.rx.counter.toNat then b else s.readAns k := by
  unfold storePayload
  split
  · next hlt =>
    cases ht : s.rx.target with
    | none => simp
    | ans =>
      have hin : s.rx.counter.toNat < s.cfg.ansMax.toNat := Nat.lt_of_lt_of_le hlt (hcap ht)
      simp [State.readAns_storeAns, hin, hlt]
    | rxbuf => simpa using State.readAns_congr (by simp) (by simp) k
  · next hge => simp [hge]

/-- A payload byte reaches `RXBUF` at the payload index, if the frame goes there and the index is below the capacity. -/
theorem readRxbuf_storePayload {s : State} (hcap : s.rx.target = .rxbuf → s.rx.capacity ≤ s.cfg.rxbufCap) (b : Byte)
    (k : Nat) :
    (storePayload b s).readRxbuf k =
      if s.rx.counter < s.rx.capacity ∧ s.rx.target = .rxbuf ∧ k = s.rx.counter.toNat then b else s.readRxbuf k := by
  unfold storePayload
  split
  · next hlt =>
    cases ht : s.rx.target with
    | none => simp
    | ans => simpa using State.readRxbuf_congr (by simp) (by simp) k
    | rxbuf =>
      have hin : s.rx.counter.toNat < s.cfg.rxbufCap.toNat := Nat.lt_of_lt_of_le hlt (hcap ht)
      simp [State.readRxbuf_storeRxbuf, hin, hlt]
  · next hge => simp [hge]

/-- RX.DATA folds and counts the byte, and outside the Receive Context touches the two memories only. -/
theorem rxData_frame (b : Byte) (s : State) :
    rxData b s = { s with
      rx := { s.rx with csum := s.rx.csum + b, counter := s.rx.counter + 1,
                        state := if s.rx.counter + 1 = s.rx.length then .awaitCsum else .awaitData }
      ans := (rxData b s).ans
      rxbuf := (rxData b s).rxbuf } := by
  unfold rxData
  rw [storePayload_spec]
  rfl

/-- Settles O21: the byte is stored at the counter before the increment, and the invariant keeps the store inside its memory. -/
theorem payloadByteEffect : Obligations.PayloadByteEffect := by
  intro b s hinv hs
  exact ⟨_, exec_rxData b hs, rxData_frame b s,
    readAns_storePayload (s := foldByte s b) hinv.capacity_le_ansMax b,
    readRxbuf_storePayload (s := foldByte s b) hinv.capacity_le_rxbufCap b⟩

/-! ## RX.CSUM and RX.TERM -/

/-- A wrong checksum byte logs, writes the negative acknowledge and ends the frame (rules R152, R243). -/
theorem State.raise_checksumMismatch (s : State) :
    s.raise .checksumMismatch = { s with
      rx := { s.rx with state := .idle }
      outputs := s.outputs ++
        [.log .checksumMismatch,
         .write [s.cfg.sof, s.rx.command, 0x01, 0x00, 0x01, s.cfg.sof + s.rx.command + 2, s.cfg.eof]] } := by
  rw [State.raise_spec, encodeAckFrame_failure]
  simp [ErrorKind.isLogged]

/-- Settles O22: the error's shared operation gives the mismatch. -/
theorem checksumByteEffect : Obligations.ChecksumByteEffect := by
  intro b s hs
  rw [exec_rxCsum b hs, rxCsum, State.raise_checksumMismatch]

theorem rxCsum_state (b : Byte) (s : State) : (rxCsum b s).rx.state = if b = s.rx.csum then .awaitTerm else .idle := by
  unfold rxCsum
  split <;> rfl

theorem rxTerm_state (b : Byte) (s : State) : (rxTerm b s).rx.state = .idle := by
  unfold rxTerm
  split <;> rfl

/-! ## The transition table -/

/-- Settles O24, a row of the table per receiver state. -/
theorem receiverTransitionTable : Obligations.ReceiverTransitionTable := by
  intro b s
  refine ⟨_, exec_feed b s, ?_⟩
  cases hs : s.rx.state with
  | idle => rw [feed_of_idle b hs, rxIdle_state hs]
  | awaitCmd => rw [feed_of_awaitCmd b hs, rxCmd_state]
  | awaitLenLo => rw [feed_of_awaitLenLo b hs, rxLenLo]
  | awaitLenHi => rw [feed_of_awaitLenHi b hs, rxLenHi_state]
  | awaitData => rw [feed_of_awaitData b hs, rxData_frame]
  | awaitCsum => rw [feed_of_awaitCsum b hs, rxCsum_state]
  | awaitTerm => rw [feed_of_awaitTerm b hs, rxTerm_state]

end Sys2Proof.Machine
end

section
/-! The correlator (43_correlator.md): SW.POP, and who takes and frees the lock. -/

namespace Sys2Proof.Machine

/-! ## Populating the Pending Command -/

theorem exec_swPop {s : State} (h : s.co.stage = .locked) : exec .swPop s = .next (populate s) :=
  nextIf_eq_next.mpr ⟨decide_eq_true h, rfl⟩

/-- Settles O40: the effect of SW.POP, written out. -/
theorem populateEffect : Obligations.PopulateEffect := fun _ h => exec_swPop h

/-! ## What leaves the lock as it is -/

@[simp] theorem dispatchFrame_lock (s : State) : (dispatchFrame s).lock = s.lock := by rw [dispatchFrame_spec]
@[simp] theorem answerFrame_lock (s : State) : (answerFrame s).lock = s.lock := by unfold answerFrame; split <;> rfl
@[simp] theorem recheck_lock (s : State) : (recheck s).lock = s.lock := by rw [recheck_spec]
@[simp] theorem wake_lock (s : State) : (wake s).lock = s.lock := recheck_lock _
@[simp] theorem transmit_lock (ok : Bool) (s : State) : (transmit ok s).lock = s.lock := by cases ok <;> rfl

section
variable {s t u : State}

/-- An arm that completes has done what FEED does. -/
theorem exec_selectArm_eq_next {st : RxState} {b : Byte} (h : exec (selectArm st b) s = .next t) : feed b s = t := by
  by_cases hs : s.rx.state = st
  · rw [← hs, exec_selectArm] at h
    exact Host.Outcome.next.inj h
  · rw [exec_selectArm_of_ne hs] at h
    cases h

theorem lock_of_selectArm (st : RxState) {b : Byte} (h : exec (selectArm st b) s = .next t) : t.lock = s.lock := by
  rw [← exec_selectArm_eq_next h, feed_lock]

theorem lock_of_nextIf {c : Bool} {r : Refusal} (h : nextIf c r u = .next t) (hu : u.lock = s.lock) : t.lock = s.lock := by
  obtain ⟨-, rfl⟩ := nextIf_eq_next.mp h
  exact hu

theorem lock_of_guarded_nextIf {p : Prop} [Decidable p] {c : Bool} {r r' : Refusal}
    (h : (if p then nextIf c r u else .refused r') = .next t) (hu : u.lock = s.lock) : t.lock = s.lock := by
  split at h
  · exact lock_of_nextIf h hu
  · cases h

theorem lock_of_hostRead {i : Nat} (h : exec (.hostRead i) s = .next t) : t.lock = s.lock := by
  simp only [exec, execHostRead] at h
  split at h <;> cases h
  rfl

/-- The lock is free where SW.ACQ or a pseudo-operation completes. -/
theorem lock_free_of_acquireThen {r : Request} (h : acquireThen r u s = .next t) : s.lock = false ∧ u = t := by
  obtain ⟨-, hfree, htu⟩ := acquireThen_eq_next.mp h
  simp only [State.lockFree, Bool.and_eq_true, Bool.not_eq_true'] at hfree
  exact ⟨hfree.2, htu⟩

/-- A pseudo-operation takes the lock and frees it again. -/
theorem lock_of_exchange {r : Request} {plan : ExchangePlan} (h : acquireThen r (exchange r plan s) s = .next t) :
    t.lock = s.lock := by
  obtain ⟨hs, rfl⟩ := lock_free_of_acquireThen h
  exact hs.symm

/-! ## Every operation and the lock -/

/-- What an operation that completes does to the lock: SW.ACQ takes it, SW.EXIT frees it, every other but RESET leaves it as it
was. -/
theorem exec_lock {i : Instr} (h : exec i s = .next t) (hr : i ≠ .reset) :
    t.lock = s.lock ∨ (i = .swExit ∧ t.lock = false) ∨
    (∃ c p cap ack, i = .swAcq c p cap ack) ∧ s.lock = false ∧ t.lock = true := by
  cases i with
  | reset => exact absurd rfl hr
  | swAcq c p cap ack =>
    obtain ⟨hs, rfl⟩ := lock_free_of_acquireThen h
    exact .inr (.inr ⟨⟨c, p, cap, ack, rfl⟩, hs, rfl⟩)
  | swExit =>
    obtain ⟨-, rfl⟩ := nextIf_eq_next.mp h
    exact .inr (.inl ⟨rfl, rfl⟩)
  | sendAndWait _ _ _ _ | sendAndWaitAck _ _ _ => exact .inl (lock_of_exchange h)
  | frameAnswer _ _ | frameReceive _ | frameInvalid _ => exact .inl (lock_of_nextIf h (feedAll_lock _ _))
  | frameUnknown _ | frameAck _ =>
    cases h
    exact .inl (feedAll_lock _ _)
  | feed b =>
    cases h
    exact .inl (feed_lock b s)
  | rxIdle _ => exact .inl (lock_of_selectArm .idle h)
  | rxCmd _ => exact .inl (lock_of_selectArm .awaitCmd h)
  | rxLenLo _ => exact .inl (lock_of_selectArm .awaitLenLo h)
  | rxLenHi _ => exact .inl (lock_of_selectArm .awaitLenHi h)
  | rxData _ => exact .inl (lock_of_selectArm .awaitData h)
  | rxCsum _ => exact .inl (lock_of_selectArm .awaitCsum h)
  | rxTerm _ => exact .inl (lock_of_selectArm .awaitTerm h)
  | dispatch => exact .inl (lock_of_guarded_nextIf h (dispatchFrame_lock s))
  | dispAnswer => exact .inl (lock_of_guarded_nextIf h (answerFrame_lock s))
  | dispInvalid | dispReceive => exact .inl (lock_of_guarded_nextIf h rfl)
  | swPop => exact .inl (lock_of_nextIf h (populate_lock s))
  | swTx ok => exact .inl (lock_of_nextIf h (transmit_lock ok s))
  | swWake => exact .inl (lock_of_guarded_nextIf h (wake_lock s))
  | swSpurious => exact .inl (lock_of_nextIf h (recheck_lock s))
  | swTimeout => exact .inl (lock_of_guarded_nextIf h (timeOut_lock s))
  | hostRead _ => exact .inl (lock_of_hostRead h)
  | encode _ _ | frameCommand _ _ | log _ => exact .inl (lock_of_nextIf h rfl)
  | csum8 _ | encodeAck _ _ | cmdVersion | frameNack _ | write _ _ | raiseSignal | onReceive _ _ =>
    cases h
    exact .inl rfl

/-! ## One exchange at a time -/

theorem State.lockFree_of_lock (h : s.lock = true) : s.lockFree = false := by simp [State.lockFree, h]

theorem acquireThen_ne_next_of_lock (h : s.lock = true) (r : Request) (u t : State) : acquireThen r u s ≠ .next t := by
  intro hn
  have hfree := (lock_free_of_acquireThen hn).1
  simp [h] at hfree

end

/-- Settles O46: a lock that is held refuses SW.ACQ and the pseudo-operations (rule R196), and `exec_lock` says who changes it. -/
theorem oneExchangeAtATime : Obligations.OneExchangeAtATime := by
  refine ⟨fun s c p cap ack plan hs => ⟨?_, ?_, ?_, ?_⟩, fun i s t h hr => ⟨fun hs ht => ?_, fun hs ht => ?_⟩⟩
  · simp [enabled, State.lockFree_of_lock hs]
  · exact acquireThen_ne_next_of_lock hs _ _
  · exact acquireThen_ne_next_of_lock hs _ _
  · exact acquireThen_ne_next_of_lock hs _ _
  · obtain hkeep | ⟨hexit, -⟩ | ⟨-, hfree, -⟩ := exec_lock h hr
    · simp [hs, ht] at hkeep
    · exact hexit
    · simp [hs] at hfree
  · obtain hkeep | ⟨-, hfree⟩ | ⟨hacq, -, -⟩ := exec_lock h hr
    · simp [hs, ht] at hkeep
    · simp [ht] at hfree
    · exact hacq

end Sys2Proof.Machine
end


section
/-! The wire format (30_encoding.md, 40_codec.md): the checksum, and decoding what was encoded. -/

namespace Sys2Proof

/-! ## The checksum -/

@[simp] theorem csum8_nil : csum8 [] = 0 := rfl
@[simp] theorem csum8_cons (b : Byte) (bs : List Byte) : csum8 (b :: bs) = b + csum8 bs := rfl

theorem csum8_append (as bs : List Byte) : csum8 (as ++ bs) = csum8 as + csum8 bs := by
  induction as with
  | nil => simp
  | cons a as ih => simp only [List.cons_append, csum8_cons, ih, BitVec.add_assoc]

theorem csum8_toNat (bs : List Byte) : (csum8 bs).toNat = (bs.map BitVec.toNat).sum % 256 := by
  induction bs with
  | nil => rfl
  | cons b bs ih => simp [ih, BitVec.toNat_add]

/-- Settles O2: the sum of the parts, by induction on the first. -/
theorem csumOfConcatenation : Obligations.CsumOfConcatenation := by
  intro a b
  rw [csum8_append]
  exact ⟨rfl, BitVec.toNat_add _ _⟩

/-! ## A frame byte by byte -/

theorem encodeFrame_eq_cons (cfg : Config) (c : Byte) (p : List Byte) :
    encodeFrame cfg c p = cfg.sof :: c :: lowByte (BitVec.ofNat 16 p.length) :: highByte (BitVec.ofNat 16 p.length) ::
      (p ++ [csum8 (frameBody cfg c p), cfg.eof]) := by
  simp [encodeFrame, frameBody, frameHeader]

/-- The header in the terms of rule R93: the low and the high part of the length as numbers. -/
theorem frameBody_eq {cfg : Config} {c : Byte} {p : List Byte} (h : p.length ≤ 65535) :
    frameBody cfg c p = [cfg.sof, c, BitVec.ofNat 8 (p.length % 256), BitVec.ofNat 8 (p.length / 256)] ++ p := by
  rw [frameBody, frameHeader, lowByte_ofNat, highByte_ofNat h]

/-- A frame of a one-byte payload (rule R123). -/
theorem encodeAckFrame_eq (cfg : Config) (c : Byte) (success : Bool) :
    encodeAckFrame cfg c success =
      [cfg.sof, c, 0x01, 0x00, ackByte success, cfg.sof + c + 1 + ackByte success, cfg.eof] := by
  rw [encodeAckFrame, encodeFrame, frameBody_eq (by simp)]
  simp [BitVec.add_assoc]

/-- The version request (rule R100). -/
theorem encodeFrame_version (cfg : Config) :
    encodeFrame cfg Config.cmdVersion [] = [cfg.sof, 0x3A, 0x00, 0x00, cfg.sof + 0x3A, cfg.eof] := by
  rw [encodeFrame, frameBody_eq (by simp)]
  simp [Config.cmdVersion]

/-! ## Decoding what was encoded -/

/-- What follows the command byte of an encoded frame is read as its payload, where the bound allows it. -/
theorem parseAfterCommand_encoded {cfg : Config} {bound : Half} (c : Byte) {p : List Byte} (rest : List Byte)
    (h : p.length ≤ bound.toNat) :
    parseAfterCommand cfg bound c (lowByte (BitVec.ofNat 16 p.length) :: highByte (BitVec.ofNat 16 p.length) ::
      (p ++ [csum8 (frameBody cfg c p), cfg.eof] ++ rest)) = .ok (p, rest) := by
  have hn : (BitVec.ofNat 16 p.length).toNat = p.length := by
    have := bound.isLt
    exact Nat.mod_eq_of_lt (by omega)
  have hb : ¬ bound < BitVec.ofNat 16 p.length := by
    rw [BitVec.lt_def, hn]
    omega
  simp [parseAfterCommand, hn, hb, frameBody, frameHeader]

theorem decodeSent_encodeFrame (cfg : Config) (c : Byte) {p : List Byte} (rest : List Byte) (h : p.length ≤ 65535) :
    decodeSent cfg (encodeFrame cfg c p ++ rest) = .ok (sentRow c p, rest) := by
  have hparse := parseAfterCommand_encoded (cfg := cfg) (bound := 65535) c rest h
  rw [encodeFrame_eq_cons]
  simp only [List.cons_append, decodeSent, if_true, hparse, wrapParsed]

/-- Settles O5: the payload is read back, and `sentRow` says which row that is. -/
theorem sentFramesDecodeToTheirRows : Obligations.SentFramesDecodeToTheirRows := by
  intro cfg rest
  refine ⟨fun c bs h => ?_, fun c bs h => ?_, fun bs h => ?_, fun c p bs hp h => ?_⟩ <;> obtain rfl := Option.some.inj h
  · exact decodeSent_encodeFrame cfg c rest (by simp)
  · exact decodeSent_encodeFrame cfg c rest (by simp)
  · exact decodeSent_encodeFrame cfg _ rest (by simp)
  · exact decodeSent_encodeFrame cfg c rest hp

/-- The frame row of a frame type (rule R99). -/
def frameRow (c : Byte) (p : List Byte) : FrameType → Instr
  | .answer => .frameAnswer c p
  | .receive => .frameReceive p
  | .invalid => .frameInvalid p
  | .none => .frameUnknown c

/-- A whole frame in the receive stream is read back as the row of its classification. -/
theorem decode_encodeFrame {v : View} (hv : v.rxState = .idle) {c : Byte} {p : List Byte} (rest : List Byte)
    (hc : classify v.cfg v.awaited c ≠ .none) (hp : p.length ≤ (v.cfg.maxLen c).toNat) :
    decode v (encodeFrame v.cfg c p ++ rest) = .ok (frameRow c p (classify v.cfg v.awaited c), rest) := by
  have hparse := parseAfterCommand_encoded (cfg := v.cfg) c rest hp
  rw [encodeFrame_eq_cons]
  cases ht : classify v.cfg v.awaited c with
  | none => exact absurd ht hc
  | answer | receive | invalid =>
    simp only [List.cons_append, decode, hv, decodeFrame, if_true, ht, hparse, wrapParsed, frameRow]

/-- An unknown command is read at its command byte, whatever follows (rule R102). -/
theorem decode_unknown {v : View} (hv : v.rxState = .idle) {c : Byte} (rest : List Byte)
    (hc : classify v.cfg v.awaited c = .none) : decode v ([v.cfg.sof, c] ++ rest) = .ok (.frameUnknown c, rest) := by
  simp [decode, hv, decodeFrame, hc]

/-- Where no frame stands, `IDLE` takes one byte. -/
theorem decode_idle_of_error {v : View} (hv : v.rxState = .idle) {b : Byte} {rest : List Byte} {e : FrameError}
    (h : decodeFrame v (b :: rest) = .error e) : decode v (b :: rest) = .ok (.rxIdle b, rest) := by
  simp only [decode, hv, h, decodeByte, selectArm]

/-- In every state but `IDLE` one byte is the arm of the state. -/
theorem decode_of_not_idle {v : View} (h : v.rxState ≠ .idle) (b : Byte) (rest : List Byte) :
    decode v (b :: rest) = .ok (selectArm v.rxState b, rest) := by
  unfold decode
  split
  · next hi => exact absurd hi h
  all_goals rfl

theorem decode_arm {v : View} {st : RxState} (hv : v.rxState = st) (hst : st ≠ .idle) (b : Byte) (rest : List Byte) :
    decode v (b :: rest) = .ok (selectArm st b, rest) := by
  rw [decode_of_not_idle (hv.trans_ne hst), hv]

section
variable {cfg : Config} {awaited : Option Byte}

theorem classify_awaited {c : Byte} (h : awaited = some c) : classify cfg awaited c = .answer := if_pos h

theorem classify_cmdReceive (h : awaited ≠ some cfg.cmdReceive) : classify cfg awaited cfg.cmdReceive = .receive := by
  rw [classify, if_neg h, if_pos rfl]

theorem classify_cmdInvalid (h : awaited ≠ some cfg.cmdInvalid) (hne : cfg.cmdInvalid ≠ cfg.cmdReceive) :
    classify cfg awaited cfg.cmdInvalid = .invalid := by
  rw [classify, if_neg h, if_neg hne, if_pos rfl]

theorem classify_unknown {c : Byte} (h : awaited ≠ some c) (hr : c ≠ cfg.cmdReceive) (hi : c ≠ cfg.cmdInvalid) :
    classify cfg awaited c = .none := by
  rw [classify, if_neg h, if_neg hr, if_neg hi]

end

/-- Settles O6: a frame row by its classification, a byte by the arm of the state. -/
theorem receivedFramesDecodeToTheirRows : Obligations.ReceivedFramesDecodeToTheirRows := by
  intro v rest bs
  refine ⟨fun c p hv ha hp h => ?_, fun p hv ha hp h => ?_, fun p hv ha hne hp h => ?_, fun c hv ha hr hi h => ?_,
    fun b hv hb => ?_, fun hv => ?_, ?_, ?_, ?_, ?_, ?_, ?_⟩
  · obtain rfl := Option.some.inj h
    have hc := classify_awaited (cfg := v.cfg) ha
    rw [decode_encodeFrame hv rest (by simp [hc]) hp, hc, frameRow]
  · obtain rfl := Option.some.inj h
    have hc := classify_cmdReceive ha
    rw [decode_encodeFrame hv rest (by simp [hc]) hp, hc, frameRow]
  · obtain rfl := Option.some.inj h
    have hc := classify_cmdInvalid ha hne
    rw [decode_encodeFrame hv rest (by simp [hc]) hp, hc, frameRow]
  · obtain rfl := Option.some.inj h
    exact decode_unknown hv rest (classify_unknown ha hr hi)
  · exact decode_idle_of_error hv (e := .noStartMarker) (by simp [decodeFrame, hb])
  · exact decode_idle_of_error hv (e := .truncated) (by simp [decodeFrame])
  all_goals exact fun b hv => decode_arm hv (by decide) b rest

/-- A stream with a byte in it decodes. -/
theorem exists_decode (v : View) {bs : List Byte} (h : bs ≠ []) : ∃ i rest, decode v bs = .ok (i, rest) := by
  obtain ⟨b, rest, rfl⟩ := List.exists_cons_of_ne_nil h
  by_cases hv : v.rxState = .idle
  · cases hf : decodeFrame v (b :: rest) with
    | ok r => exact ⟨r.1, r.2, by simp only [decode, hv, hf]⟩
    | error e => exact ⟨_, _, decode_idle_of_error hv hf⟩
  · exact ⟨_, _, decode_of_not_idle hv b rest⟩

/-- Settles O8: what was read is a frame or a byte, and each says which bytes it took. -/
theorem everyByteOfTheStreamDecodes : Obligations.EveryByteOfTheStreamDecodes := by
  intro v bs hbs
  obtain ⟨i, rest, h⟩ := exists_decode v hbs
  rcases decode_ok h with hf | hb
  · obtain ⟨used, hsplit, hne, henc, -⟩ := decodeFrame_ok hf
    exact ⟨i, used, rest, h, hsplit, hne, henc⟩
  · obtain ⟨b, hsplit, -, henc⟩ := decodeByte_ok hb
    exact ⟨i, [b], rest, h, hsplit, by simp, henc⟩

/-- Settles O7: six closed words. -/
theorem writtenOutFramesDecode : Obligations.WrittenOutFramesDecode := by
  unfold Obligations.WrittenOutFramesDecode
  decide

end Sys2Proof
end

section
/-! What an operation does: one function for the next states, one law that says when `exec` answers it, and the statements that
follow from the two. -/

namespace Sys2Proof.Machine

/-- What an operation does where it is enabled. A receiver arm is FEED and a dispatch arm is DISPATCH, since each is enabled only
where the receiver selects it. -/
def effect (i : Instr) (s : State) : State :=
  match i with
  | .frameAnswer c p => feedAll (encodeFrame s.cfg c p) s
  | .frameReceive p => feedAll (encodeFrame s.cfg s.cfg.cmdReceive p) s
  | .frameInvalid p => feedAll (encodeFrame s.cfg s.cfg.cmdInvalid p) s
  | .frameUnknown c => feedAll (markerAndCommand s.cfg c) s
  | .frameCommand c p => s.emit (.write (encodeFrame s.cfg c p))
  | .cmdVersion => s.emit (.write (encodeFrame s.cfg Config.cmdVersion []))
  | .frameAck c => feedAll (encodeAckFrame s.cfg c true) s
  | .frameNack c => s.emit (.write (encodeAckFrame s.cfg c false))
  | .feed b | .rxIdle b | .rxCmd b | .rxLenLo b | .rxLenHi b | .rxData b | .rxCsum b | .rxTerm b => feed b s
  | .dispatch | .dispAnswer | .dispInvalid | .dispReceive => dispatchFrame s
  | .sendAndWait c p cap plan => exchange ⟨c, p, cap, false⟩ plan s
  | .sendAndWaitAck c p plan => exchange ⟨c, p, 1, true⟩ plan s
  | .swAcq c p cap ack => acquire ⟨c, p, cap, ack⟩ s
  | .swPop => populate s
  | .swTx ok => transmit ok s
  | .swWake => wake s
  | .swSpurious => spuriousWake s
  | .swTimeout => timeOut s
  | .swExit => exitExchange s
  | .csum8 bytes => s.emit (.value [Sys2Proof.csum8 bytes])
  | .encode c p => s.emit (.value (encodeFrame s.cfg c p))
  | .encodeAck c success => s.emit (.value (encodeAckFrame s.cfg c success))
  | .hostRead k => s.emit (.hostRead k (s.readAns k))
  | .reset => resetBlock s
  | .write frame _ => s.emit (.write frame)
  | .raiseSignal => s.raiseSignal
  | .onReceive bytes n => s.emit (.onReceive bytes n)
  | .log kind => s.emit (.log kind)

section
variable {s t u : State}

theorem selectArm_eq_next {st : RxState} {b : Byte} :
    exec (selectArm st b) s = .next t ↔ decide (s.rx.state = st) = true ∧ feed b s = t := by
  by_cases h : s.rx.state = st
  · subst h
    simp [exec_selectArm]
  · simp [exec_selectArm_of_ne h, h]

/-- A guarded `nextIf`, the form of the dispatch arms and of SW.WAKE and SW.TIMEOUT. -/
theorem guarded_nextIf_eq_next {g c : Bool} {r r' : Refusal} :
    (if g then nextIf c r u else .refused r') = .next t ↔ (g && c) = true ∧ u = t := by
  cases g <;> simp [nextIf_eq_next]

/-- A dispatch arm does what DISPATCH does where the frame has its type. -/
theorem guarded_dispatch_eq_next {g : Bool} {p : Prop} [Decidable p] {r r' : Refusal} (hu : p → dispatchFrame s = u) :
    (if g then nextIf (decide p) r u else .refused r') = .next t ↔ (g && decide p) = true ∧ dispatchFrame s = t := by
  rw [guarded_nextIf_eq_next]
  refine and_congr_right fun h => ?_
  simp only [Bool.and_eq_true, decide_eq_true_eq] at h
  rw [hu h.2]

theorem waiting_nextIf_eq_next {c : Bool} {r r' : Refusal} :
    (if s.co.stage = .wait then nextIf c r u else .refused r') = .next t ↔
      (decide (s.co.stage = .wait) && c) = true ∧ u = t := by
  simpa only [decide_eq_true_eq] using guarded_nextIf_eq_next (g := decide (s.co.stage = .wait)) (c := c) (r := r) (r' := r')

theorem execHostRead_eq_next {k : Nat} :
    execHostRead k s = .next t ↔ decide (k < s.cfg.ansMax.toNat) = true ∧ s.emit (.hostRead k (s.readAns k)) = t := by
  unfold execHostRead
  split <;> simp [*]

theorem pseudo_eq_next {r : Request} :
    acquireThen r u s = .next t ↔ (s.inRange r && s.lockFree) = true ∧ u = t := by
  rw [acquireThen_eq_next, Bool.and_eq_true, and_assoc]

theorem next_eq_next : (.next u : Host.Outcome State Fault Refusal) = .next t ↔ true = true ∧ u = t := by simp

/-- An operation answers a next state exactly where it is enabled, and then it is its effect. -/
theorem exec_eq_next {i : Instr} : exec i s = .next t ↔ enabled s i = true ∧ effect i s = t := by
  cases i with
  | frameAnswer _ _ | frameReceive _ | frameInvalid _ | frameCommand _ _ | encode _ _ | log _ => exact nextIf_eq_next
  | frameUnknown _ | cmdVersion | frameAck _ | frameNack _ | feed _ | csum8 _ | encodeAck _ _ | reset | write _ _
  | raiseSignal | onReceive _ _ => exact next_eq_next
  | rxIdle _ => exact selectArm_eq_next (st := .idle)
  | rxCmd _ => exact selectArm_eq_next (st := .awaitCmd)
  | rxLenLo _ => exact selectArm_eq_next (st := .awaitLenLo)
  | rxLenHi _ => exact selectArm_eq_next (st := .awaitLenHi)
  | rxData _ => exact selectArm_eq_next (st := .awaitData)
  | rxCsum _ => exact selectArm_eq_next (st := .awaitCsum)
  | rxTerm _ => exact selectArm_eq_next (st := .awaitTerm)
  | dispatch => exact guarded_nextIf_eq_next
  | dispAnswer | dispInvalid | dispReceive => exact guarded_dispatch_eq_next fun h => by rw [dispatchFrame, h]
  | sendAndWait _ _ _ _ | sendAndWaitAck _ _ _ | swAcq _ _ _ _ => exact pseudo_eq_next
  | swPop | swTx _ | swSpurious | swExit => exact nextIf_eq_next
  | swWake | swTimeout => exact waiting_nextIf_eq_next
  | hostRead _ => exact execHostRead_eq_next

theorem exec_of_enabled {i : Instr} (h : enabled s i = true) : exec i s = .next (effect i s) := exec_eq_next.mpr ⟨h, rfl⟩

end

/-- Settles O11: `exec_eq_next` without the next state. -/
theorem operationsCompleteExactlyWhenEnabled : Obligations.OperationsCompleteExactlyWhenEnabled := fun _ _ =>
  ⟨fun ⟨_, h⟩ => (exec_eq_next.mp h).1, fun h => ⟨_, exec_of_enabled h⟩⟩

/-- Settles O12: a step takes enabled operations only. -/
theorem stepNeverStops : Obligations.StepNeverStops := by
  intro s
  unfold step
  split
  · next i t h => exact ⟨_, exec_of_enabled (nextOperation_spec h).2⟩
  · exact ⟨s, rfl⟩

/-! ## The codec's operations, the events, HOST.READ and RESET -/

/-- Settles O1: the sum by induction over the bytes, the operation by its effect. -/
theorem csumIsTheTruncatedSum : Obligations.CsumIsTheTruncatedSum :=
  ⟨csum8_toNat, fun bs _ => exec_of_enabled (i := .csum8 bs) rfl⟩

theorem encodable_of_le {p : List Byte} (h : p.length ≤ 65535) : encodable p = true := decide_eq_true h

theorem encodable_of_lt {p : List Byte} (h : 65535 < p.length) : encodable p = false := decide_eq_false (by omega)

/-- A payload over the encoder's domain is refused. -/
theorem refused_of_long {p : List Byte} (h : 65535 < p.length) (t : State) :
    nextIf (encodable p) .payloadTooLong t = .refused .payloadTooLong := by
  rw [encodable_of_lt h, nextIf_false]

/-- Settles O3: the header by `frameBody_eq`, which gives the length bytes as numbers. -/
theorem encodeBuildsHeaderPayloadFooter : Obligations.EncodeBuildsHeaderPayloadFooter := by
  refine ⟨fun s c p body hp hbody => ⟨?_, ?_⟩, fun s c p hp => refused_of_long hp _⟩
  · rw [exec_of_enabled (i := .encode c p) (encodable_of_le hp), hbody, ← frameBody_eq hp]
    rfl
  · rw [hbody]
    simp
    omega

/-- Settles O4: the acknowledge byte is `00` for success and `01` for failure (rule R101). -/
theorem encodeAckBuildsTheSevenByteFrame : Obligations.EncodeAckBuildsTheSevenByteFrame := by
  intro s c success a ha
  have hack : ackByte success = a := by rw [ha]; rfl
  rw [exec_of_enabled (i := .encodeAck c success) rfl, effect, encodeAckFrame_eq, hack]
  rfl

/-- Settles O34: each row is its one `write`, the bytes of the frame written out. -/
theorem sentFrameRowsAreOneWrite : Obligations.SentFrameRowsAreOneWrite := by
  intro s
  refine ⟨fun c p body hp hbody => ?_, fun c p hp => refused_of_long hp _, ?_, fun c => ?_⟩
  · rw [exec_of_enabled (i := .frameCommand c p) (encodable_of_le hp), hbody, ← frameBody_eq hp]
    rfl
  · rw [exec_of_enabled (i := .cmdVersion) rfl, effect, encodeFrame_version]
    rfl
  · rw [exec_of_enabled (i := .frameNack c) rfl, effect, encodeAckFrame_failure]
    rfl

/-- Settles O58: the trace is no part of what the second read reads. -/
theorem hostReadReturnsTheByte : Obligations.HostReadReturnsTheByte := by
  refine fun s i => ⟨fun hi => ?_, fun hi => if_neg (by omega)⟩
  have hread (t : State) (h : i < t.cfg.ansMax.toNat) :
      exec (.hostRead i) t = .next { t with outputs := t.outputs ++ [.hostRead i (t.readAns i)] } :=
    exec_of_enabled (decide_eq_true h)
  exact ⟨_, hread s hi, rfl, hread _ hi⟩

/-- Settles O59: the reset state, field by field. -/
theorem resetGivesTheTable : Obligations.ResetGivesTheTable := fun _ =>
  ⟨_, exec_of_enabled (i := .reset) rfl, rfl, rfl, rfl, rfl, rfl, rfl, rfl, rfl⟩

theorem isLogged_iff {k : ErrorKind} : k.isLogged = true ↔ k ∉ [ErrorKind.writeFailure, .timeout] := by
  cases k <;> decide

/-- Settles O60: each event by its effect, and `log` by its guard. -/
theorem eventEffects : Obligations.EventEffects := by
  refine fun s => ⟨fun _ _ => rfl, rfl, fun _ _ => rfl, fun k hk => ?_, fun k hk => ?_⟩
  · exact exec_of_enabled (i := .log k) (isLogged_iff.mpr hk)
  · have hk' : k.isLogged = false := by simpa [hk] using (isLogged_iff (k := k)).not
    rw [exec, execLog, hk', nextIf_false]

/-! ## The schedule -/

/-- Where the schedule gives an operation, a step is that operation with the schedule moved on. -/
theorem step_of_takeNext {s : State} {i : Instr} {rest : List Input} (h : takeNext s s.schedule = some (i, rest)) :
    step s = exec i (reschedule s rest) := by
  simp only [step, nextOperation, h]

/-- Where it gives none, a step is the sequencer's own. -/
theorem step_of_takeNext_none {s : State} (h : takeNext s s.schedule = none) :
    step s = match s.co.stage with
      | .idle => .next s
      | .locked => exec .swPop s
      | .populated => exec (.swTx (Config.writeResult s.choices)) (drawChoice s)
      | .wait => if s.sig = true then exec .swWake s else exec .swTimeout s
      | .exit => exec .swExit s := by
  simp only [step, nextOperation, h, sequencerNext]
  cases s.co.stage <;> simp only []
  split <;> rfl

theorem takeNext_of_decode {s : State} {bs more : List Byte} {rest : List Input} {i : Instr}
    (h : decode s.view bs = .ok (i, more)) : takeNext s (.bytes bs :: rest) = some (i, leftover more rest) := by
  simp only [takeNext, h]

theorem takeNext_of_enabled {s : State} {i : Instr} (rest : List Input) (ho : isOwnStep i = true) (he : enabled s i = true) :
    takeNext s (.op i :: rest) = some (i, rest) := by
  simp [takeNext, ho, he]

theorem takeNext_of_waiting {s : State} {i j : Instr} {rest rest' : List Input} (hi : (isOwnStep i && enabled s i) = false)
    (h : takeNext s rest = some (j, rest')) : takeNext s (.op i :: rest) = some (j, .op i :: rest') := by
  simp [takeNext, hi, h]

/-- Settles O10: `takeNext` at the front of the schedule, and the sequencer's own step where it gives nothing. -/
theorem stepRunsTheScheduledOperation : Obligations.StepRunsTheScheduledOperation := by
  refine ⟨fun s bs more rest i hs hd => ?_, fun s rest i hs ho he => ?_, fun s rest i j hs hi ho he => ?_, fun s hs => ?_,
    fun s nbits w i more hd => ?_⟩
  · exact step_of_takeNext (by rw [hs]; exact takeNext_of_decode hd)
  · exact step_of_takeNext (by rw [hs]; exact takeNext_of_enabled rest ho he)
  · exact step_of_takeNext (by rw [hs]; exact takeNext_of_waiting hi (takeNext_of_enabled rest ho he))
  · exact step_of_takeNext_none (takeNext_eq_none hs)
  · exact step_of_takeNext (s := s.withFetchWord nbits w) (takeNext_of_decode hd)

/-! ## The received frame rows -/

/-- Settles O28: the effect of a row is `feedAll` of its bytes. -/
theorem frameRowsAreTheirBytesFed : Obligations.FrameRowsAreTheirBytesFed := by
  refine fun s => ⟨fun c p hp => ?_, fun p hp => ?_, fun p hp => ?_, fun c => ?_, fun c => ?_, fun c p hp => ?_⟩
  · exact ⟨_, exec_of_enabled (encodable_of_le hp), runAll_feeds _ s⟩
  · exact ⟨_, exec_of_enabled (encodable_of_le hp), runAll_feeds _ s⟩
  · exact ⟨_, exec_of_enabled (encodable_of_le hp), runAll_feeds _ s⟩
  · exact ⟨_, exec_of_enabled rfl, runAll_feeds _ s⟩
  · exact ⟨_, exec_of_enabled rfl, runAll_feeds _ s⟩
  · exact ⟨refused_of_long hp _, refused_of_long hp _, refused_of_long hp _⟩

/-- A fetched operation is a row of the receive side, and its effect is its bytes fed. -/
theorem exec_of_decode {s : State} {bs rest : List Byte} {i : Instr} (h : decode s.view bs = .ok (i, rest)) :
    ∃ used, bs = used ++ rest ∧ exec i s = .next (feedAll used s) := by
  have he := exec_of_enabled (decode_enabled h).2.1
  rcases decode_ok h with hf | hb
  · obtain ⟨used, hsplit, -, henc, hrow⟩ := decodeFrame_ok hf
    refine ⟨used, hsplit, he.trans ?_⟩
    rcases hrow with ⟨c, p, rfl, -⟩ | ⟨p, rfl, -⟩ | ⟨p, rfl, -⟩ | ⟨c, rfl⟩ <;> obtain rfl := Option.some.inj henc <;> rfl
  · obtain ⟨b, hsplit, rfl, -⟩ := decodeByte_ok hb
    exact ⟨[b], hsplit, exec_selectArm s b⟩

/-- Settles O9: the bytes the decoder took, fed. -/
theorem aFetchedFrameDoesWhatItsBytesDo : Obligations.AFetchedFrameDoesWhatItsBytesDo := by
  intro s bs i rest h
  obtain ⟨used, hsplit, hexec⟩ := exec_of_decode h
  exact ⟨used, _, hsplit, runAll_feeds used s, hexec⟩

end Sys2Proof.Machine
end

section
/-! One byte, whole: what RX.CMD, RX.LENHI, RX.TERM and the dispatch do, what a FEED step appends to the trace, and what it reads
and writes (41_receiver.md, 42_router.md). -/

namespace Sys2Proof.Machine

/-! ## The dispatch -/

section
variable {s : State}

theorem sequencesAgree_iff : s.sequencesAgree = true ↔ s.pend.answerSequence = s.pend.sendSequence := decide_eq_true_iff

theorem answerFrame_of_agree (h : s.pend.answerSequence = s.pend.sendSequence) :
    answerFrame s = { s with pend := { s.pend with answerLength := s.rx.length }, sig := true,
                             outputs := s.outputs ++ [.raiseSignal] } :=
  if_pos (sequencesAgree_iff.mpr h)

theorem answerFrame_of_stale (h : s.pend.answerSequence ≠ s.pend.sendSequence) :
    answerFrame s = { s with outputs := s.outputs ++ [.log .staleAnswer] } :=
  if_neg (mt sequencesAgree_iff.mp h)

theorem dispatchFrame_answer (h : s.rx.type = .answer) : dispatchFrame s = answerFrame s := by rw [dispatchFrame, h]
theorem dispatchFrame_invalid (h : s.rx.type = .invalid) : dispatchFrame s = invalidFrame s := by rw [dispatchFrame, h]
theorem dispatchFrame_receive (h : s.rx.type = .receive) : dispatchFrame s = receiveFrame s := by rw [dispatchFrame, h]
theorem dispatchFrame_none (h : s.rx.type = .none) : dispatchFrame s = s := by rw [dispatchFrame, h]

theorem atTerminator_of (h : s.rx.state = .awaitTerm) : s.atTerminator = true := decide_eq_true h

theorem exec_dispatch (hs : s.rx.state = .awaitTerm) (ht : s.rx.type ≠ .none) :
    exec .dispatch s = .next (dispatchFrame s) :=
  exec_of_enabled (by simp [enabled, atTerminator_of hs, ht])

theorem exec_dispAnswer (hs : s.rx.state = .awaitTerm) (ht : s.rx.type = .answer) :
    exec .dispAnswer s = .next (dispatchFrame s) :=
  exec_of_enabled (by simp [enabled, atTerminator_of hs, ht])

theorem exec_dispInvalid (hs : s.rx.state = .awaitTerm) (ht : s.rx.type = .invalid) :
    exec .dispInvalid s = .next (dispatchFrame s) :=
  exec_of_enabled (by simp [enabled, atTerminator_of hs, ht])

theorem exec_dispReceive (hs : s.rx.state = .awaitTerm) (ht : s.rx.type = .receive) :
    exec .dispReceive s = .next (dispatchFrame s) :=
  exec_of_enabled (by simp [enabled, atTerminator_of hs, ht])

end

/-- Settles O36: the two outcomes of the sequence test. -/
theorem dispatchOfAnAnswer : Obligations.DispatchOfAnAnswer := by
  intro s hs ht
  rw [exec_dispAnswer hs ht, dispatchFrame_answer ht]
  split
  · next h => rw [answerFrame_of_agree h]
  · next h => rw [answerFrame_of_stale h]

/-- Settles O37: the arm of the type, written out. -/
theorem dispatchOfAnInvalid : Obligations.DispatchOfAnInvalid := by
  intro s hs ht
  rw [exec_dispInvalid hs ht, dispatchFrame_invalid ht]
  rfl

/-- Settles O38: the arm of the type, written out. -/
theorem dispatchOfAReceive : Obligations.DispatchOfAReceive := by
  intro s hs ht
  rw [exec_dispReceive hs ht, dispatchFrame_receive ht]
  rfl

/-! ## RX.CMD -/

/-- The Pending Command after a command byte of type `t`: an answer records the send sequence (rules R33, R143). -/
def State.recognised (s : State) (t : FrameType) : Pend :=
  { s.pend with answerSequence := if t = .answer then s.pend.sendSequence else s.pend.answerSequence }

/-- A classified command byte marks the frame and, for an answer, records the send sequence. -/
theorem rxCmd_of_classified {b : Byte} {s : State} (h : s.classified b ≠ .none) :
    rxCmd b s = { s with
      rx := { s.rx with
        state := .awaitLenLo, command := b, csum := s.rx.csum + b
        type := s.classified b, target := targetOf (s.classified b), capacity := s.capacityOf (s.classified b) }
      pend := s.recognised (s.classified b) } := by
  unfold rxCmd
  cases hc : s.classified b with
  | none => exact absurd hc h
  | answer | receive | invalid => rfl

/-- Settles O18: a classified byte by its type, an unknown one by the abort. -/
theorem commandByteEffect : Obligations.CommandByteEffect := by
  intro b s hs
  rw [exec_rxCmd b hs]
  have hc := State.classified_eq s b
  split at hc
  · next hp => rw [if_pos hp, rxCmd_of_classified (by simp [hc]), hc]; rfl
  · next hp =>
    rw [if_neg hp]
    split at hc
    · next hr => rw [if_pos hr, rxCmd_of_classified (by simp [hc]), hc]; rfl
    · next hr =>
      rw [if_neg hr]
      split at hc
      · next hi => rw [if_pos hi, rxCmd_of_classified (by simp [hc]), hc]; rfl
      · next hi => rw [if_neg hi, rxCmd_of_unknown hc]

/-! ## RX.LENHI -/

theorem setHighByte_eq_ofNat (v : Half) (b : Byte) : setHighByte v b = BitVec.ofNat 16 (b.toNat * 256 + v.toNat % 256) := by
  apply BitVec.eq_of_toNat_eq
  rw [setHighByte_toNat, BitVec.toNat_ofNat]
  omega

/-- A declared length over the maximum of its command ends the frame (rules R147, R242). -/
theorem rxLenHi_of_over {b : Byte} {s : State} (h : s.cfg.maxLen s.rx.command < setHighByte s.rx.length b) :
    rxLenHi b s = { s with
      rx := { s.rx with length := setHighByte s.rx.length b, csum := s.rx.csum + b, state := .idle }
      outputs := s.outputs ++ [.log .lengthOverflow] } :=
  if_pos h

/-- A declared length within the maximum leads to the payload, or to the checksum if it is 0 (rules R146, R148). -/
theorem rxLenHi_of_within {b : Byte} {s : State} (h : ¬ s.cfg.maxLen s.rx.command < setHighByte s.rx.length b) :
    rxLenHi b s = { s with
      rx := { s.rx with
        length := setHighByte s.rx.length b, csum := s.rx.csum + b
        state := if setHighByte s.rx.length b = 0 then .awaitCsum else .awaitData } } := by
  unfold rxLenHi
  dsimp only
  rw [if_neg h]
  split <;> rfl

theorem exec_rxLenHi {s : State} (b : Byte) (h : s.rx.state = .awaitLenHi) : exec (.rxLenHi b) s = .next (rxLenHi b s) := by
  rw [← feed_of_awaitLenHi b h]
  exact exec_of_enabled (i := .rxLenHi b) (decide_eq_true h)

/-- Settles O20: the two outcomes of the length check. -/
theorem lengthHighByteEffect : Obligations.LengthHighByteEffect := by
  intro b s n hs hn
  rw [exec_rxLenHi b hs, hn, ← setHighByte_eq_ofNat]
  split
  · next h => rw [rxLenHi_of_over h]
  · next h => rw [rxLenHi_of_within h]

/-! ## RX.TERM -/

/-- The terminator dispatches and returns to `IDLE` (rule R153). -/
theorem rxTerm_eof (s : State) : rxTerm s.cfg.eof s = { dispatchFrame s with rx := { s.rx with state := .idle } } := by
  rw [rxTerm, if_pos rfl, State.returnToIdle, dispatchFrame_rx]

/-- Any other byte is a terminator mismatch (rule R244). -/
theorem rxTerm_of_ne_eof {b : Byte} {s : State} (h : b ≠ s.cfg.eof) :
    rxTerm b s = { s with rx := { s.rx with state := .idle }, outputs := s.outputs ++ [.log .terminatorMismatch] } :=
  if_neg h

theorem exec_rxTerm {s : State} (b : Byte) (h : s.rx.state = .awaitTerm) : exec (.rxTerm b) s = .next (rxTerm b s) := by
  rw [← feed_of_awaitTerm b h]
  exact exec_of_enabled (i := .rxTerm b) (decide_eq_true h)

/-- Settles O23: the terminator by `rxTerm_eof`, any other byte by `rxTerm_of_ne_eof`. -/
theorem terminatorByteEffect : Obligations.TerminatorByteEffect := by
  refine fun b s hs => ⟨fun hb ht => ⟨_, exec_dispatch hs ht, ?_⟩, fun hb => ?_⟩
  · rw [hb, exec_rxTerm _ hs, rxTerm_eof]
  · rw [exec_rxTerm b hs, rxTerm_of_ne_eof hb]

/-! ## What a FEED step appends to the trace -/

/-- The events of a dispatch, by the type of the frame (rules R171 to R173). -/
def dispatchOutputs (s : State) : List Output :=
  match s.rx.type with
  | .answer => if s.pend.answerSequence = s.pend.sendSequence then [.raiseSignal] else [.log .staleAnswer]
  | .invalid => [.raiseSignal]
  | .receive => [.onReceive (s.rxbufBytes s.deliveredCount) s.rx.length]
  | .none => []

/-- The events of a FEED step, by the receiver state. -/
def feedOutputs (b : Byte) (s : State) : List Output :=
  match s.rx.state with
  | .idle => []
  | .awaitCmd => if s.classified b = .none then [.log .unknownCommand] else []
  | .awaitLenLo => []
  | .awaitLenHi => if s.cfg.maxLen s.rx.command < setHighByte s.rx.length b then [.log .lengthOverflow] else []
  | .awaitData => []
  | .awaitCsum =>
    if b = s.rx.csum then [] else [.log .checksumMismatch, .write (encodeAckFrame s.cfg s.rx.command false)]
  | .awaitTerm => if b = s.cfg.eof then dispatchOutputs s else [.log .terminatorMismatch]

section
variable (b : Byte) (s : State)

theorem dispatchFrame_outputs : (dispatchFrame s).outputs = s.outputs ++ dispatchOutputs s := by
  unfold dispatchOutputs
  cases ht : s.rx.type with
  | none => simp [dispatchFrame_none ht]
  | answer =>
    rw [dispatchFrame_answer ht]
    dsimp only
    split
    · next h => rw [answerFrame_of_agree h]
    · next h => rw [answerFrame_of_stale h]
  | receive => rw [dispatchFrame_receive ht]; rfl
  | invalid => rw [dispatchFrame_invalid ht]; rfl

/-- A dispatch sets the signal exactly with its event. -/
theorem dispatchFrame_sig : (dispatchFrame s).sig = true ↔ s.sig = true ∨ .raiseSignal ∈ dispatchOutputs s := by
  unfold dispatchOutputs
  cases ht : s.rx.type with
  | none => simp [dispatchFrame_none ht]
  | answer =>
    rw [dispatchFrame_answer ht]
    dsimp only
    split
    · next h => simp [answerFrame_of_agree h]
    · next h => simp [answerFrame_of_stale h]
  | receive => rw [dispatchFrame_receive ht]; simp [receiveFrame]
  | invalid => rw [dispatchFrame_invalid ht]; simp [invalidFrame]

theorem feed_outputs : (feed b s).outputs = s.outputs ++ feedOutputs b s := by
  unfold feedOutputs
  cases hs : s.rx.state with
  | idle =>
    rw [feed_of_idle b hs, rxIdle]
    split <;> simp
  | awaitCmd =>
    rw [feed_of_awaitCmd b hs]
    dsimp only
    split
    · next h => rw [rxCmd_of_unknown h]
    · next h => rw [rxCmd_of_classified h]; simp
  | awaitLenLo => rw [feed_of_awaitLenLo b hs, rxLenLo]; simp
  | awaitLenHi =>
    rw [feed_of_awaitLenHi b hs]
    dsimp only
    split
    · next h => rw [rxLenHi_of_over h]
    · next h => rw [rxLenHi_of_within h]; simp
  | awaitData => rw [feed_of_awaitData b hs, rxData_frame]; simp
  | awaitCsum =>
    rw [feed_of_awaitCsum b hs, rxCsum]
    dsimp only
    split
    · simp
    · simp [State.raise_spec, ErrorKind.isLogged]
  | awaitTerm =>
    rw [feed_of_awaitTerm b hs]
    dsimp only
    split
    · next h => rw [h, rxTerm_eof]; exact dispatchFrame_outputs s
    · next h => rw [rxTerm_of_ne_eof h]

/-- A byte that is no payload and dispatches nothing touches the Receive Context, the answer sequence and the trace only. -/
theorem feed_of_control {b : Byte} {s : State} (hd : s.rx.state ≠ .awaitData) (ht : ¬(s.rx.state = .awaitTerm ∧ b = s.cfg.eof)) :
    feed b s = { s with
      rx := (feed b s).rx
      pend := { s.pend with answerSequence := (feed b s).pend.answerSequence }
      outputs := (feed b s).outputs } := by
  cases hs : s.rx.state with
  | awaitData => exact absurd hs hd
  | idle =>
    rw [feed_of_idle b hs, rxIdle]
    split <;> rfl
  | awaitCmd =>
    rw [feed_of_awaitCmd b hs]
    by_cases hc : s.classified b = .none
    · rw [rxCmd_of_unknown hc]
    · rw [rxCmd_of_classified hc]; rfl
  | awaitLenLo => rw [feed_of_awaitLenLo b hs]; rfl
  | awaitLenHi =>
    rw [feed_of_awaitLenHi b hs]
    by_cases hn : s.cfg.maxLen s.rx.command < setHighByte s.rx.length b
    · rw [rxLenHi_of_over hn]
    · rw [rxLenHi_of_within hn]
  | awaitCsum =>
    rw [feed_of_awaitCsum b hs, rxCsum]
    split
    · rfl
    · rw [State.raise_checksumMismatch]
  | awaitTerm => rw [feed_of_awaitTerm b hs, rxTerm_of_ne_eof fun hb => ht ⟨hs, hb⟩]

/-- Only the terminator touches the signal and the answer length. -/
theorem feed_sig_answerLength {b : Byte} {s : State} (h : ¬(s.rx.state = .awaitTerm ∧ b = s.cfg.eof)) :
    (feed b s).sig = s.sig ∧ (feed b s).pend.answerLength = s.pend.answerLength := by
  by_cases hd : s.rx.state = .awaitData
  · rw [feed_of_awaitData b hd, rxData_frame]
    exact ⟨rfl, rfl⟩
  · rw [feed_of_control hd h]
    exact ⟨rfl, rfl⟩

/-- Away from the terminator a FEED step logs and writes only, and logs no stale answer. -/
theorem feedOutputs_of_no_dispatch {b : Byte} {s : State} (h : ¬(s.rx.state = .awaitTerm ∧ b = s.cfg.eof)) :
    .raiseSignal ∉ feedOutputs b s ∧ .log .staleAnswer ∉ feedOutputs b s ∧
      ∀ bytes n, .onReceive bytes n ∉ feedOutputs b s := by
  unfold feedOutputs
  cases hs : s.rx.state with
  | idle | awaitLenLo | awaitData => simp
  | awaitCmd | awaitLenHi | awaitCsum =>
    dsimp only
    split <;> simp
  | awaitTerm => simp [show b ≠ s.cfg.eof from fun hb => h ⟨hs, hb⟩]

theorem feedOutputs_eof {s : State} (h : s.rx.state = .awaitTerm) : feedOutputs s.cfg.eof s = dispatchOutputs s := by
  simp only [feedOutputs, h, if_true]

theorem feed_eof {s : State} (h : s.rx.state = .awaitTerm) :
    feed s.cfg.eof s = { dispatchFrame s with rx := { s.rx with state := .idle } } := by
  rw [feed_of_awaitTerm _ h, rxTerm_eof]

/-- A FEED step sets the signal exactly with its event. -/
theorem feed_sig : (feed b s).sig = true ↔ s.sig = true ∨ .raiseSignal ∈ feedOutputs b s := by
  by_cases h : s.rx.state = .awaitTerm ∧ b = s.cfg.eof
  · obtain ⟨hs, rfl⟩ := h
    rw [feed_eof hs, feedOutputs_eof hs]
    exact dispatchFrame_sig s
  · rw [(feed_sig_answerLength h).1, or_iff_left (feedOutputs_of_no_dispatch h).1]

theorem raiseSignal_mem_dispatchOutputs :
    .raiseSignal ∈ dispatchOutputs s ↔
      s.rx.type = .answer ∧ s.pend.answerSequence = s.pend.sendSequence ∨ s.rx.type = .invalid := by
  unfold dispatchOutputs
  cases ht : s.rx.type with
  | none | receive | invalid => simp
  | answer =>
    dsimp only
    split <;> simp [*]

/-- The signal's event comes from the dispatch of an answer whose sequences agree, or of an invalid frame. -/
theorem raiseSignal_mem_feedOutputs :
    .raiseSignal ∈ feedOutputs b s ↔ s.rx.state = .awaitTerm ∧ b = s.cfg.eof ∧
      (s.rx.type = .answer ∧ s.pend.answerSequence = s.pend.sendSequence ∨ s.rx.type = .invalid) := by
  by_cases h : s.rx.state = .awaitTerm ∧ b = s.cfg.eof
  · obtain ⟨hs, rfl⟩ := h
    rw [feedOutputs_eof hs, raiseSignal_mem_dispatchOutputs]
    simp [hs]
  · exact iff_of_false (feedOutputs_of_no_dispatch h).1 fun ⟨hs, hb, _⟩ => h ⟨hs, hb⟩

end

/-- Settles O35: the arms are DISPATCH where the type selects them, and `feedOutputs` says what another byte appends. -/
theorem dispatchIsTheArmOfTheType : Obligations.DispatchIsTheArmOfTheType := by
  refine fun s => ⟨fun hs => ⟨fun ht => ?_, fun ht => ?_, fun ht => ?_, fun ht => ?_, fun ht t h => ?_⟩,
    fun hs i hi t h => ?_, fun b hb => ?_, by decide⟩
  · rw [exec_dispatch hs (by simp [ht]), exec_dispAnswer hs ht]
  · rw [exec_dispatch hs (by simp [ht]), exec_dispInvalid hs ht]
  · rw [exec_dispatch hs (by simp [ht]), exec_dispReceive hs ht]
  · exact ⟨_, exec_dispatch hs ht, by rw [exec_feed, feed_eof hs]⟩
  · simpa [enabled, ht] using (exec_eq_next.mp h).1
  · have hat : s.atTerminator = false := decide_eq_false hs
    have hen := (exec_eq_next.mp h).1
    simp only [List.mem_cons, List.not_mem_nil, or_false] at hi
    rcases hi with rfl | rfl | rfl | rfl <;> simp [enabled, hat] at hen
  · obtain ⟨hsig, hlen⟩ := feed_sig_answerLength hb
    exact ⟨_, _, exec_feed b s, feed_outputs b s, hsig, hlen, feedOutputs_of_no_dispatch hb⟩

/-! ## Errors -/

theorem feedOutputs_filter_length_le {f : Output → Bool} (hf : ∀ frame, f (.write frame) = false) (b : Byte) (s : State) :
    ((feedOutputs b s).filter f).length ≤ 1 := by
  have hshort {l : List Output} (h : l.length ≤ 1) : (l.filter f).length ≤ 1 := (List.length_filter_le f l).trans h
  unfold feedOutputs
  cases hs : s.rx.state with
  | idle | awaitLenLo | awaitData => simp
  | awaitCmd | awaitLenHi =>
    dsimp only
    split <;> exact hshort (by simp)
  | awaitCsum =>
    dsimp only
    split
    · simp
    · rw [List.filter_cons, List.filter_singleton, hf]
      split <;> simp
  | awaitTerm =>
    dsimp only
    split
    · unfold dispatchOutputs
      cases s.rx.type with
      | none | receive | invalid => exact hshort (by simp)
      | answer =>
        dsimp only
        split <;> exact hshort (by simp)
    · exact hshort (by simp)

/-- A kind in the events of a FEED step is a receiver-side one, the step began in a frame and ended in `IDLE` (rule R256). -/
theorem of_log_mem_feedOutputs {b : Byte} {s : State} {k : ErrorKind} (h : .log k ∈ feedOutputs b s) :
    (feed b s).rx.state = .idle ∧ k.isLogged = true ∧ s.rx.state ≠ .idle := by
  unfold feedOutputs at h
  cases hs : s.rx.state with
  | idle | awaitLenLo | awaitData => simp [hs] at h
  | awaitCmd =>
    by_cases hc : s.classified b = .none
    · obtain rfl : k = .unknownCommand := by simpa [hs, hc] using h
      rw [feed_of_awaitCmd b hs, rxCmd_of_unknown hc]
      exact ⟨rfl, rfl, by simp⟩
    · simp [hs, hc] at h
  | awaitLenHi =>
    by_cases hn : s.cfg.maxLen s.rx.command < setHighByte s.rx.length b
    · obtain rfl : k = .lengthOverflow := by simpa [hs, hn] using h
      rw [feed_of_awaitLenHi b hs, rxLenHi_of_over hn]
      exact ⟨rfl, rfl, by simp⟩
    · simp [hs, hn] at h
  | awaitCsum =>
    by_cases hb : b = s.rx.csum
    · simp [hs, hb] at h
    · obtain rfl : k = .checksumMismatch := by simpa [hs, hb] using h
      rw [feed_of_awaitCsum b hs, rxCsum_state, if_neg hb]
      exact ⟨rfl, rfl, by simp⟩
  | awaitTerm =>
    rw [feed_of_awaitTerm b hs, rxTerm_state]
    refine ⟨rfl, ?_, by simp⟩
    by_cases hb : b = s.cfg.eof
    · simp only [hs, hb, if_true, dispatchOutputs] at h
      cases ht : s.rx.type with
      | none | receive | invalid => simp [ht] at h
      | answer =>
        obtain ⟨-, rfl⟩ : ¬s.pend.answerSequence = s.pend.sendSequence ∧ k = .staleAnswer := by
          simpa [ht, apply_ite (Output.log k ∈ ·)] using h
        rfl
    · obtain rfl : k = .terminatorMismatch := by simpa [hs, hb] using h
      rfl

/-- Settles O25: `feedOutputs` counted, and its log entries read off. -/
theorem atMostOneErrorPerByte : Obligations.AtMostOneErrorPerByte := fun b s =>
  ⟨_, _, exec_feed b s, feed_outputs b s, feedOutputs_filter_length_le (fun _ => rfl) b s, fun _ h => of_log_mem_feedOutputs h⟩

end Sys2Proof.Machine
end

section
/-! The feeder and the rest of the block (10_state.md section 7, 41_receiver.md section 3): what the feeder never writes, and what
a FEED step reads. -/

namespace Sys2Proof.Machine

/-! ## What the feeder never writes -/

/-- Nothing of what belongs to the correlator, the caller or the environment differs, and the signal is not lowered (rule R46). -/
structure FeederFrame (s t : State) : Prop where
  cfg : t.cfg = s.cfg
  co : t.co = s.co
  rq : t.rq = s.rq
  lock : t.lock = s.lock
  schedule : t.schedule = s.schedule
  epoch : t.epoch = s.epoch
  choices : t.choices = s.choices
  active : t.pend.active = s.pend.active
  command : t.pend.command = s.pend.command
  sendSequence : t.pend.sendSequence = s.pend.sendSequence
  answerCapacity : t.pend.answerCapacity = s.pend.answerCapacity
  sig : s.sig = true → t.sig = true

theorem FeederFrame.refl (s : State) : FeederFrame s s := by constructor <;> simp

theorem FeederFrame.trans {s t u : State} (h : FeederFrame s t) (h' : FeederFrame t u) : FeederFrame s u where
  cfg := h'.cfg.trans h.cfg
  co := h'.co.trans h.co
  rq := h'.rq.trans h.rq
  lock := h'.lock.trans h.lock
  schedule := h'.schedule.trans h.schedule
  epoch := h'.epoch.trans h.epoch
  choices := h'.choices.trans h.choices
  active := h'.active.trans h.active
  command := h'.command.trans h.command
  sendSequence := h'.sendSequence.trans h.sendSequence
  answerCapacity := h'.answerCapacity.trans h.answerCapacity
  sig := h'.sig ∘ h.sig

theorem feed_feederFrame (b : Byte) (s : State) : FeederFrame s (feed b s) := by
  have hsig : s.sig = true → (feed b s).sig = true := fun h => (feed_sig b s).mpr (.inl h)
  rw [feed_spec] at hsig ⊢
  exact ⟨rfl, rfl, rfl, rfl, rfl, rfl, rfl, rfl, rfl, rfl, rfl, hsig⟩

theorem dispatchFrame_feederFrame (s : State) : FeederFrame s (dispatchFrame s) := by
  have hsig : s.sig = true → (dispatchFrame s).sig = true := fun h => (dispatchFrame_sig s).mpr (.inl h)
  rw [dispatchFrame_spec] at hsig ⊢
  exact ⟨rfl, rfl, rfl, rfl, rfl, rfl, rfl, rfl, rfl, rfl, rfl, hsig⟩

theorem feedAll_feederFrame (bs : List Byte) (s : State) : FeederFrame s (feedAll bs s) := by
  induction bs generalizing s with
  | nil => exact .refl s
  | cons b bs ih => exact (feed_feederFrame b s).trans (ih _)

/-- Settles O53: each of the operations is bytes fed, or a dispatch. -/
theorem feederWritesOnlyItsOwn : Obligations.FeederWritesOnlyItsOwn := by
  intro s t i b c p hi h
  obtain ⟨-, rfl⟩ := exec_eq_next.mp h
  have hframe : FeederFrame s (effect i s) := by
    simp only [List.mem_cons, List.not_mem_nil, or_false] at hi
    rcases hi with rfl | rfl | rfl | rfl | rfl | rfl | rfl | rfl | rfl | rfl | rfl | rfl | rfl | rfl | rfl | rfl | rfl
    iterate 8 exact feed_feederFrame b s
    iterate 5 exact feedAll_feederFrame _ s
    iterate 4 exact dispatchFrame_feederFrame s
  obtain ⟨hcfg, hco, hrq, hlock, hschedule, hepoch, hchoices, hactive, hcommand, hsend, hcapacity, hsig⟩ := hframe
  exact ⟨hcfg, hco, hrq, hlock, hschedule, hepoch, hchoices, hactive, hcommand, hsend, hcapacity, hsig⟩

/-! ## What a FEED step reads -/

/-- Equal in what a FEED step may read (rule R157): all but the correlator's registers, the request, the lock, the signal, the trace
and the environment. -/
structure SameInputs (s s' : State) : Prop where
  cfg : s'.cfg = s.cfg
  rx : s'.rx = s.rx
  pend : s'.pend = s.pend
  ans : s'.ans = s.ans
  rxbuf : s'.rxbuf = s.rxbuf
  epoch : s'.epoch = s.epoch

/-- `s` in the surroundings of `o`. -/
def State.inSurroundings (s o : State) : State :=
  { o with cfg := s.cfg, rx := s.rx, pend := s.pend, ans := s.ans, rxbuf := s.rxbuf, epoch := s.epoch }

theorem SameInputs.eq_inSurroundings {s s' : State} (h : SameInputs s s') : s' = s.inSurroundings s' := by
  obtain ⟨hcfg, hrx, hpend, hans, hrxbuf, hepoch⟩ := h
  simp only [State.inSurroundings, ← hcfg, ← hrx, ← hpend, ← hans, ← hrxbuf, ← hepoch]

theorem feedOutputs_inSurroundings (b : Byte) (s o : State) : feedOutputs b (s.inSurroundings o) = feedOutputs b s := rfl

/-- A choice on what may be read is the same choice on both sides. -/
theorem SameInputs.ite {c c' : Prop} [Decidable c] [Decidable c'] {s t s' t' : State} (hc : c ↔ c')
    (hs : SameInputs s s') (ht : SameInputs t t') : SameInputs (if c then s else t) (if c' then s' else t') := by
  by_cases h : c
  · rwa [if_pos h, if_pos (hc.mp h)]
  · rwa [if_neg h, if_neg (mt hc.mpr h)]

theorem SameInputs.countByte {s s' : State} (h : SameInputs s s') : SameInputs (countByte s) (countByte s') :=
  ⟨h.cfg, by rw [countByte_rx, countByte_rx, h.rx], h.pend, h.ans, h.rxbuf, h.epoch⟩

section
variable (b : Byte) (s o : State)

theorem storePayload_inSurroundings : SameInputs (storePayload b s) (storePayload b (s.inSurroundings o)) := by
  refine .ite Iff.rfl ?_ ⟨rfl, rfl, rfl, rfl, rfl, rfl⟩
  change SameInputs _ (match s.rx.target with | .ans => _ | .rxbuf => _ | .none => _)
  cases s.rx.target with
  | none => exact ⟨rfl, rfl, rfl, rfl, rfl, rfl⟩
  | ans | rxbuf => exact .ite Iff.rfl ⟨rfl, rfl, rfl, rfl, rfl, rfl⟩ ⟨rfl, rfl, rfl, rfl, rfl, rfl⟩

theorem dispatchFrame_inSurroundings : SameInputs (dispatchFrame s) (dispatchFrame (s.inSurroundings o)) := by
  cases ht : s.rx.type with
  | none =>
    rw [dispatchFrame_none ht, dispatchFrame_none (s := s.inSurroundings o) ht]
    exact ⟨rfl, rfl, rfl, rfl, rfl, rfl⟩
  | answer =>
    rw [dispatchFrame_answer ht, dispatchFrame_answer (s := s.inSurroundings o) ht]
    exact .ite Iff.rfl ⟨rfl, rfl, rfl, rfl, rfl, rfl⟩ ⟨rfl, rfl, rfl, rfl, rfl, rfl⟩
  | receive =>
    rw [dispatchFrame_receive ht, dispatchFrame_receive (s := s.inSurroundings o) ht]
    exact ⟨rfl, rfl, rfl, rfl, rfl, rfl⟩
  | invalid =>
    rw [dispatchFrame_invalid ht, dispatchFrame_invalid (s := s.inSurroundings o) ht]
    exact ⟨rfl, rfl, rfl, rfl, rfl, rfl⟩

theorem rxCmd_inSurroundings : SameInputs (rxCmd b s) (rxCmd b (s.inSurroundings o)) := by
  by_cases hc : s.classified b = .none
  · rw [rxCmd_of_unknown hc, rxCmd_of_unknown (s := s.inSurroundings o) hc]
    exact ⟨rfl, rfl, rfl, rfl, rfl, rfl⟩
  · rw [rxCmd_of_classified hc, rxCmd_of_classified (s := s.inSurroundings o) hc]
    exact ⟨rfl, rfl, rfl, rfl, rfl, rfl⟩

/-- A FEED step does the same in other surroundings. -/
theorem feed_inSurroundings : SameInputs (feed b s) (feed b (s.inSurroundings o)) := by
  cases hs : s.rx.state with
  | idle =>
    rw [feed_of_idle b hs, feed_of_idle (s := s.inSurroundings o) b hs]
    exact .ite Iff.rfl ⟨rfl, rfl, rfl, rfl, rfl, rfl⟩ ⟨rfl, rfl, rfl, rfl, rfl, rfl⟩
  | awaitCmd =>
    rw [feed_of_awaitCmd b hs, feed_of_awaitCmd (s := s.inSurroundings o) b hs]
    exact rxCmd_inSurroundings b s o
  | awaitLenLo =>
    rw [feed_of_awaitLenLo b hs, feed_of_awaitLenLo (s := s.inSurroundings o) b hs]
    exact ⟨rfl, rfl, rfl, rfl, rfl, rfl⟩
  | awaitLenHi =>
    rw [feed_of_awaitLenHi b hs, feed_of_awaitLenHi (s := s.inSurroundings o) b hs]
    refine .ite Iff.rfl ⟨rfl, rfl, rfl, rfl, rfl, rfl⟩ ?_
    exact .ite Iff.rfl ⟨rfl, rfl, rfl, rfl, rfl, rfl⟩ ⟨rfl, rfl, rfl, rfl, rfl, rfl⟩
  | awaitData =>
    rw [feed_of_awaitData b hs, feed_of_awaitData (s := s.inSurroundings o) b hs]
    exact (storePayload_inSurroundings b (foldByte s b) (foldByte o b)).countByte
  | awaitCsum =>
    rw [feed_of_awaitCsum b hs, feed_of_awaitCsum (s := s.inSurroundings o) b hs]
    exact .ite Iff.rfl ⟨rfl, rfl, rfl, rfl, rfl, rfl⟩ ⟨rfl, rfl, rfl, rfl, rfl, rfl⟩
  | awaitTerm =>
    rw [feed_of_awaitTerm b hs, feed_of_awaitTerm (s := s.inSurroundings o) b hs]
    obtain ⟨hcfg, hrx, hpend, hans, hrxbuf, hepoch⟩ := dispatchFrame_inSurroundings s o
    exact .ite Iff.rfl ⟨hcfg, congrArg ({ · with state := .idle }) hrx, hpend, hans, hrxbuf, hepoch⟩
      ⟨rfl, rfl, rfl, rfl, rfl, rfl⟩

end

/-- Settles O55: the second state is the first in other surroundings. -/
theorem feedReadsOnlyItsInputs : Obligations.FeedReadsOnlyItsInputs := by
  intro b s s' hcfg hrx hpend hans hrxbuf hepoch
  have hs' : s' = s.inSurroundings s' := SameInputs.eq_inSurroundings ⟨hcfg, hrx, hpend, hans, hrxbuf, hepoch⟩
  have hout : feedOutputs b s' = feedOutputs b s := by rw [hs', feedOutputs_inSurroundings]
  have hsame : SameInputs (feed b s) (feed b s') := by rw [hs']; exact feed_inSurroundings b s s'
  obtain ⟨-, hrx', hpend', hans', hrxbuf', -⟩ := hsame
  refine ⟨_, _, feedOutputs b s, exec_feed b s, exec_feed b s', hrx', hpend', hans', hrxbuf', feed_outputs b s, ?_,
    fun hsig => ?_⟩
  · rw [feed_outputs, hout]
  · rw [Bool.eq_iff_iff, feed_sig, feed_sig, hout, hsig]

end Sys2Proof.Machine
end

section
/-! The correlator's steps, whole (43_correlator.md section 1): what each does, where it is refused, and what none of them
writes. -/

namespace Sys2Proof.Machine

/-! ## The effects written out -/

section
variable (s : State)

theorem transmit_eq (ok : Bool) :
    transmit ok s = { s with
      co := if ok then { s.co with stage := .wait } else { stage := .exit, result := .fail }
      outputs := s.outputs ++ [.write (encodeFrame s.cfg s.rq.command s.rq.payload)] } := by
  cases ok <;> rfl

theorem recheck_eq :
    recheck s = { s with
      co := if s.pend.answerSequence = s.pend.sendSequence then { stage := .exit, result := .ok } else s.co } := by
  unfold recheck
  by_cases h : s.pend.answerSequence = s.pend.sendSequence
  · rw [if_pos h, if_pos (sequencesAgree_iff.mpr h)]
  · rw [if_neg h, if_neg (mt sequencesAgree_iff.mp h)]

theorem wake_eq :
    wake s = { s with
      sig := false
      co := if s.pend.answerSequence = s.pend.sendSequence then { stage := .exit, result := .ok } else s.co } :=
  recheck_eq { s with sig := false }

theorem spuriousWake_eq :
    spuriousWake s = { s with
      co := if s.pend.answerSequence = s.pend.sendSequence then { stage := .exit, result := .ok } else s.co } :=
  recheck_eq s

theorem timeOut_eq : timeOut s = { s with co := { stage := .exit, result := .fail } } := rfl

end

/-! ## Where a step is taken -/

section
variable {s : State}

theorem inRange_of {r : Request} (hp : r.payload.length ≤ 65535) (hc : r.capacity ≤ s.cfg.ansMax) : s.inRange r = true := by
  simp [State.inRange, hp, hc]

theorem inRange_iff {r : Request} : s.inRange r = true ↔ r.payload.length ≤ 65535 ∧ r.capacity ≤ s.cfg.ansMax := by
  simp [State.inRange]

theorem lockFree_iff : s.lockFree = true ↔ s.co.stage = .idle ∧ s.lock = false := by
  simp [State.lockFree]

theorem canWake_iff : s.canWake = true ↔ s.co.stage = .wait ∧ s.sig = true := by simp [State.canWake]
theorem canSpurious_iff : s.canSpurious = true ↔ s.co.stage = .wait := by simp [State.canSpurious]
theorem canTimeout_iff : s.canTimeout = true ↔ s.co.stage = .wait ∧ s.sig = false := by simp [State.canTimeout]

theorem exec_swTx (h : s.co.stage = .populated) (ok : Bool) : exec (.swTx ok) s = .next (transmit ok s) :=
  exec_of_enabled (i := .swTx ok) (decide_eq_true h)

theorem exec_swWake (h : s.co.stage = .wait) (hsig : s.sig = true) : exec .swWake s = .next (wake s) :=
  exec_of_enabled (i := .swWake) (canWake_iff.mpr ⟨h, hsig⟩)

theorem exec_swSpurious (h : s.co.stage = .wait) : exec .swSpurious s = .next (spuriousWake s) :=
  exec_of_enabled (i := .swSpurious) (canSpurious_iff.mpr h)

theorem exec_swTimeout (h : s.co.stage = .wait) (hsig : s.sig = false) : exec .swTimeout s = .next (timeOut s) :=
  exec_of_enabled (i := .swTimeout) (canTimeout_iff.mpr ⟨h, hsig⟩)

theorem exec_swExit (h : s.co.stage = .exit) : exec .swExit s = .next (exitExchange s) :=
  exec_of_enabled (i := .swExit) (decide_eq_true h)

end

/-- Settles O39: the range of the request is tested first, then the lock. -/
theorem acquireEffect : Obligations.AcquireEffect := by
  intro s c p cap ack
  refine ⟨fun hp hc hs hl => ?_, fun hp hc hl => ?_, fun h => ?_⟩
  · refine exec_of_enabled (i := .swAcq c p cap ack) ?_
    rw [enabled, inRange_of hp hc, lockFree_iff.mpr ⟨hs, hl⟩, Bool.and_self]
  · rw [exec, execSwAcq, acquireThen, if_pos (inRange_of hp hc), State.lockFree_of_lock hl, nextIf_false]
  · refine if_neg fun hr => ?_
    obtain ⟨hp, hc⟩ := inRange_iff.mp hr
    rcases h with h | h
    · exact absurd hp (Nat.not_le.mpr h)
    · exact absurd hc (BitVec.not_le.mpr h)

/-- Settles O41: the frame of the latched request, written out. -/
theorem transmitEffect : Obligations.TransmitEffect := by
  intro s ok body hs hp hbody
  rw [exec_swTx hs, transmit_eq, hbody, ← frameBody_eq hp]
  rfl

/-- Settles O42: a wake with and without the signal, and a spurious one. -/
theorem wakeEffect : Obligations.WakeEffect := by
  refine fun s hs => ⟨fun hsig => ?_, fun hsig => ?_, ?_⟩
  · rw [exec_swWake hs hsig, wake_eq]
  · rw [exec, execSwWake, if_pos hs, hsig, nextIf_false]
  · rw [exec_swSpurious hs, spuriousWake_eq]

/-- Settles O43: the effect without a signal, the guard with one. -/
theorem timeoutEffect : Obligations.TimeoutEffect := by
  refine fun s hs => ⟨fun hsig => ?_, fun hsig => ?_⟩
  · rw [exec_swTimeout hs hsig, timeOut_eq]
  · rw [exec, execSwTimeout, if_pos hs, hsig, Bool.not_true, nextIf_false]

theorem SeqNum.add_one_eq_ofNat (n : SeqNum) : n + 1 = BitVec.ofNat 32 (n.toNat + 1) := by
  apply BitVec.eq_of_toNat_eq
  simp [BitVec.toNat_add]

/-- Settles O44: the next sequence number as a number. -/
theorem exitEffect : Obligations.ExitEffect := by
  intro s st hs hst
  rw [exec_swExit hs, hst, ← SeqNum.add_one_eq_ofNat]
  rfl

/-! ## What the correlator's steps never write -/

/-- Nothing of what belongs to the feeder, the configuration or the environment differs, and the signal is not raised (rule R46). -/
structure CorrelatorFrame (s t : State) : Prop where
  cfg : t.cfg = s.cfg
  rx : t.rx = s.rx
  ans : t.ans = s.ans
  rxbuf : t.rxbuf = s.rxbuf
  schedule : t.schedule = s.schedule
  epoch : t.epoch = s.epoch
  choices : t.choices = s.choices
  answerSequence : t.pend.answerSequence = s.pend.answerSequence
  sig : t.sig = true → s.sig = true

section
variable (s : State)

theorem acquire_correlatorFrame (r : Request) : CorrelatorFrame s (acquire r s) :=
  ⟨rfl, rfl, rfl, rfl, rfl, rfl, rfl, rfl, id⟩

theorem populate_correlatorFrame : CorrelatorFrame s (populate s) := ⟨rfl, rfl, rfl, rfl, rfl, rfl, rfl, rfl, id⟩

theorem transmit_correlatorFrame (ok : Bool) : CorrelatorFrame s (transmit ok s) := by
  rw [transmit_eq]
  exact ⟨rfl, rfl, rfl, rfl, rfl, rfl, rfl, rfl, id⟩

theorem wake_correlatorFrame : CorrelatorFrame s (wake s) := by
  rw [wake_eq]
  exact ⟨rfl, rfl, rfl, rfl, rfl, rfl, rfl, rfl, by simp⟩

theorem spuriousWake_correlatorFrame : CorrelatorFrame s (spuriousWake s) := by
  rw [spuriousWake_eq]
  exact ⟨rfl, rfl, rfl, rfl, rfl, rfl, rfl, rfl, id⟩

theorem timeOut_correlatorFrame : CorrelatorFrame s (timeOut s) := ⟨rfl, rfl, rfl, rfl, rfl, rfl, rfl, rfl, id⟩

theorem exitExchange_correlatorFrame : CorrelatorFrame s (exitExchange s) := ⟨rfl, rfl, rfl, rfl, rfl, rfl, rfl, rfl, id⟩

theorem wake_pend : (wake s).pend = s.pend := by rw [wake_eq]
theorem spuriousWake_pend : (spuriousWake s).pend = s.pend := by rw [spuriousWake_eq]
theorem transmit_pend (ok : Bool) : (transmit ok s).pend = s.pend := by rw [transmit_eq]

end

/-- Settles O54: each step by its frame. -/
theorem correlatorWritesOnlyItsOwn : Obligations.CorrelatorWritesOnlyItsOwn := by
  intro s t i c p cap flag hi h
  obtain ⟨-, rfl⟩ := exec_eq_next.mp h
  have hframe : CorrelatorFrame s (effect i s) ∧ (i ≠ .swExit → (effect i s).pend.sendSequence = s.pend.sendSequence) := by
    simp only [List.mem_cons, List.not_mem_nil, or_false] at hi
    rcases hi with rfl | rfl | rfl | rfl | rfl | rfl | rfl
    · exact ⟨acquire_correlatorFrame s _, fun _ => rfl⟩
    · exact ⟨populate_correlatorFrame s, fun _ => rfl⟩
    · exact ⟨transmit_correlatorFrame s flag, fun _ => by rw [effect, transmit_pend]⟩
    · exact ⟨wake_correlatorFrame s, fun _ => by rw [effect, wake_pend]⟩
    · exact ⟨spuriousWake_correlatorFrame s, fun _ => by rw [effect, spuriousWake_pend]⟩
    · exact ⟨timeOut_correlatorFrame s, fun _ => rfl⟩
    · exact ⟨exitExchange_correlatorFrame s, fun h => absurd rfl h⟩
  obtain ⟨⟨hcfg, hrx, hans, hrxbuf, hschedule, hepoch, hchoices, hanswer, hsig⟩, hsend⟩ := hframe
  exact ⟨hcfg, hrx, hans, hrxbuf, hschedule, hepoch, hchoices, hanswer, hsig, hsend⟩

/-- Settles O52: the exit moves the send sequence on, so the sequences no longer agree at the terminator. -/
theorem answerDispatchedAfterTheExitIsStale : Obligations.AnswerDispatchedAfterTheExitIsStale := by
  intro s hs hagree hrx ht
  have hstale : (exitExchange s).pend.answerSequence ≠ (exitExchange s).pend.sendSequence := by
    show s.pend.answerSequence ≠ s.pend.sendSequence + 1
    rw [hagree]
    simp
  have hfeed := feed_eof (s := exitExchange s) hrx
  rw [dispatchFrame_answer (s := exitExchange s) ht, answerFrame_of_stale hstale] at hfeed
  exact ⟨_, _, exec_swExit hs, (exec_feed _ _).trans (congrArg _ hfeed), rfl, rfl, rfl, rfl, rfl⟩

end Sys2Proof.Machine
end

section
/-! The smallest steps that operations are made of, and what any number of them keeps. -/

namespace Sys2Proof.Machine

/-- One step of the feeder, the router, the correlator, the host or the environment, taken where it is enabled. Every operation is a
sequence of these (`atomicSteps_of_exec`). -/
inductive AtomicStep (s : State) : State → Prop where
  | feed (b : Byte) : AtomicStep s (feed b s)
  | dispatch : AtomicStep s (dispatchFrame s)
  | acquire (r : Request) (hr : s.inRange r = true) (hl : s.lockFree = true) : AtomicStep s (acquire r s)
  | populate (h : s.co.stage = .locked) : AtomicStep s (populate s)
  | transmit (ok : Bool) (h : s.co.stage = .populated) : AtomicStep s (transmit ok s)
  | wake (h : s.canWake = true) : AtomicStep s (wake s)
  | spurious (h : s.canSpurious = true) : AtomicStep s (spuriousWake s)
  | timeOut (h : s.canTimeout = true) : AtomicStep s (timeOut s)
  | exit (h : s.co.stage = .exit) : AtomicStep s (exitExchange s)
  | emit (o : Output) : AtomicStep s (s.emit o)
  | raiseSignal : AtomicStep s s.raiseSignal
  | reset : AtomicStep s (resetBlock s)

/-- Any number of atomic steps. -/
abbrev AtomicSteps : State → State → Prop := Relation.ReflTransGen AtomicStep

/-! ## The stages inside an exchange -/

/-- The exchange has written its frame and not yet exited. -/
def Stage.written (st : Stage) : Prop := st = .wait ∨ st = .exit

/-- A move of the wait leaves the correlator's registers alone, or ends the wait. -/
theorem waitMove_co (m : WaitMove) (s : State) :
    (waitMove m s).co = s.co ∨ s.co.stage = .wait ∧ (waitMove m s).co.stage = .exit := by
  cases m with
  | feed b => exact .inl (feed_co b s)
  | wake =>
    by_cases h : s.canWake = true
    · by_cases ha : s.pend.answerSequence = s.pend.sendSequence
      · simp [waitMove, h, wake_eq, ha, (canWake_iff.mp h).1]
      · simp [waitMove, h, wake_eq, ha]
    · simp [waitMove, h]
  | spurious =>
    by_cases h : s.canSpurious = true
    · by_cases ha : s.pend.answerSequence = s.pend.sendSequence
      · simp [waitMove, h, spuriousWake_eq, ha, canSpurious_iff.mp h]
      · simp [waitMove, h, spuriousWake_eq, ha]
    · simp [waitMove, h]
  | timeout =>
    by_cases h : s.canTimeout = true
    · simp [waitMove, h, (canTimeout_iff.mp h).1]
    · simp [waitMove, h]

theorem waitMove_written {s : State} (h : s.co.stage.written) (m : WaitMove) : (waitMove m s).co.stage.written := by
  rcases waitMove_co m s with hco | ⟨-, hexit⟩
  · rwa [hco]
  · exact .inr hexit

theorem waitMoves_written {s : State} (h : s.co.stage.written) (ms : List WaitMove) : (waitMoves ms s).co.stage.written := by
  induction ms generalizing s with
  | nil => exact h
  | cons m ms ih => exact ih (waitMove_written h m)

/-- At the exit the moves of a plan leave the correlator's registers alone. -/
theorem waitMoves_co_of_exit {s : State} (h : s.co.stage = .exit) (ms : List WaitMove) : (waitMoves ms s).co = s.co := by
  induction ms generalizing s with
  | nil => rfl
  | cons m ms ih =>
    have hco : (waitMove m s).co = s.co := (waitMove_co m s).resolve_right (by simp [h])
    exact (ih (hco ▸ h)).trans hco

theorem waitMoves_append (ms ns : List WaitMove) (s : State) : waitMoves (ms ++ ns) s = waitMoves ns (waitMoves ms s) := by
  induction ms generalizing s with
  | nil => rfl
  | cons m ms ih => exact ih (waitMove m s)

theorem endWait_eq_waitMoves (s : State) : endWait s = waitMoves [.wake, .timeout] s := rfl

/-- The ending of a wait reaches the exit: a wake consumes the signal, and without one the wait times out. -/
theorem endWait_stage {s : State} (h : s.co.stage.written) : (endWait s).co.stage = .exit := by
  rcases h with h | h
  · have htimeout {t : State} (ht : t.co.stage = .wait) (hsig : t.sig = false) :
        (waitMove .timeout t).co.stage = .exit := by simp [waitMove, canTimeout_iff.mpr ⟨ht, hsig⟩]
    cases hsig : s.sig with
    | false =>
      have hw : waitMove .wake s = s := by simp [waitMove, State.canWake, hsig]
      rw [endWait, hw]
      exact htimeout h hsig
    | true =>
      have hw : waitMove .wake s = wake s := by simp [waitMove, canWake_iff.mpr ⟨h, hsig⟩]
      rw [endWait, hw]
      rcases waitMove_written (s := s) (.inl h) .wake with hs | hs <;> rw [hw] at hs
      · exact htimeout hs (by rw [wake_eq])
      · rcases waitMove_co .timeout (wake s) with hco | ⟨-, hexit⟩
        · rwa [hco]
        · exact hexit
  · rw [endWait_eq_waitMoves, waitMoves_co_of_exit h]
    exact h

theorem transmit_written (ok : Bool) (s : State) : (transmit ok s).co.stage.written := by
  rw [transmit_eq]
  cases ok
  · exact .inr rfl
  · exact .inl rfl

/-! ## The parts of an exchange -/

section
variable (r : Request) (plan : ExchangePlan) (s : State)

/-- An exchange up to the moment before SW.TX. -/
def beforeTransmit : State := feedAll plan.afterPop (populate (feedAll plan.afterAcq (acquire r s)))

/-- An exchange up to the moment before SW.EXIT. -/
def beforeExit : State := waitMoves (plan.moves ++ [.wake, .timeout]) (transmit plan.ok (beforeTransmit r plan s))

theorem exchange_eq : exchange r plan s = exitExchange (beforeExit r plan s) := by
  rw [beforeExit, waitMoves_append, ← endWait_eq_waitMoves]
  rfl

theorem beforeTransmit_stage : (beforeTransmit r plan s).co.stage = .populated := by simp [beforeTransmit]

theorem beforeExit_stage : (beforeExit r plan s).co.stage = .exit := by
  rw [beforeExit, waitMoves_append, ← endWait_eq_waitMoves]
  exact endWait_stage (waitMoves_written (transmit_written _ _) _)

end

/-! ## Every operation is a sequence of atomic steps -/

theorem atomicSteps_feedAll (bs : List Byte) (s : State) : AtomicSteps s (feedAll bs s) := by
  induction bs generalizing s with
  | nil => exact .refl
  | cons b bs ih => exact .head (.feed b) (ih _)

theorem atomicSteps_waitMove (m : WaitMove) (s : State) : AtomicSteps s (waitMove m s) := by
  cases m with
  | feed b => exact .single (.feed b)
  | wake =>
    by_cases h : s.canWake = true
    · simpa [waitMove, h] using Relation.ReflTransGen.single (AtomicStep.wake h)
    · simpa [waitMove, h] using Relation.ReflTransGen.refl
  | spurious =>
    by_cases h : s.canSpurious = true
    · simpa [waitMove, h] using Relation.ReflTransGen.single (AtomicStep.spurious h)
    · simpa [waitMove, h] using Relation.ReflTransGen.refl
  | timeout =>
    by_cases h : s.canTimeout = true
    · simpa [waitMove, h] using Relation.ReflTransGen.single (AtomicStep.timeOut h)
    · simpa [waitMove, h] using Relation.ReflTransGen.refl

theorem atomicSteps_waitMoves (ms : List WaitMove) (s : State) : AtomicSteps s (waitMoves ms s) := by
  induction ms generalizing s with
  | nil => exact .refl
  | cons m ms ih => exact (atomicSteps_waitMove m s).trans (ih _)

theorem atomicSteps_exchange {r : Request} {s : State} (hr : s.inRange r = true) (hl : s.lockFree = true)
    (plan : ExchangePlan) : AtomicSteps s (exchange r plan s) := by
  have htransmit : AtomicSteps s (beforeTransmit r plan s) :=
    calc
      AtomicSteps s (feedAll plan.afterAcq (acquire r s)) := .head (.acquire r hr hl) (atomicSteps_feedAll _ _)
      AtomicSteps _ (beforeTransmit r plan s) := .head (.populate (by simp)) (atomicSteps_feedAll _ _)
  rw [exchange_eq]
  calc
    AtomicSteps s (beforeTransmit r plan s) := htransmit
    AtomicSteps _ (beforeExit r plan s) := .head (.transmit _ (beforeTransmit_stage r plan s)) (atomicSteps_waitMoves _ _)
    AtomicSteps _ (exitExchange (beforeExit r plan s)) := .single (.exit (beforeExit_stage r plan s))

/-- An operation that completes is a sequence of atomic steps. -/
theorem atomicSteps_of_exec {i : Instr} {s t : State} (h : exec i s = .next t) : AtomicSteps s t := by
  obtain ⟨he, rfl⟩ := exec_eq_next.mp h
  cases i with
  | frameAnswer _ _ | frameReceive _ | frameInvalid _ | frameUnknown _ | frameAck _ => exact atomicSteps_feedAll _ s
  | feed b | rxIdle b | rxCmd b | rxLenLo b | rxLenHi b | rxData b | rxCsum b | rxTerm b => exact .single (.feed b)
  | dispatch | dispAnswer | dispInvalid | dispReceive => exact .single .dispatch
  | sendAndWait _ _ _ _ | sendAndWaitAck _ _ _ =>
    obtain ⟨hr, hl⟩ := (Bool.and_eq_true _ _).mp he
    exact atomicSteps_exchange hr hl _
  | swAcq _ _ _ _ =>
    obtain ⟨hr, hl⟩ := (Bool.and_eq_true _ _).mp he
    exact .single (.acquire _ hr hl)
  | swPop => exact .single (.populate (of_decide_eq_true he))
  | swTx ok => exact .single (.transmit ok (of_decide_eq_true he))
  | swWake => exact .single (.wake he)
  | swSpurious => exact .single (.spurious he)
  | swTimeout => exact .single (.timeOut he)
  | swExit => exact .single (.exit (of_decide_eq_true he))
  | reset => exact .single .reset
  | raiseSignal => exact .single .raiseSignal
  | frameCommand _ _ | cmdVersion | frameNack _ | csum8 _ | encode _ _ | encodeAck _ _ | hostRead _ | write _ _
  | onReceive _ _ | log _ => exact .single (.emit _)

/-- What every atomic step keeps, an operation keeps. -/
theorem exec_keeps {P : State → Prop} (hstep : ∀ {s t}, P s → AtomicStep s t → P t) {i : Instr} {s t : State} (hs : P s)
    (h : exec i s = .next t) : P t := by
  have hsteps := atomicSteps_of_exec h
  clear h
  induction hsteps with
  | refl => exact hs
  | tail _ hlast ih => exact hstep ih hlast

end Sys2Proof.Machine
end

section
/-! Who writes what, over all operations (00_scope.md, 10_state.md, 43_correlator.md section 2): the configuration, the stage, the
two sequences, the signal. -/

namespace Sys2Proof.Machine

/-! ## The configuration and the schedule -/

theorem AtomicStep.cfg_schedule {s t : State} (h : AtomicStep s t) : t.cfg = s.cfg ∧ t.schedule = s.schedule := by
  cases h with
  | feed b => exact ⟨feed_cfg b s, feed_schedule b s⟩
  | dispatch => exact ⟨(dispatchFrame_feederFrame s).cfg, (dispatchFrame_feederFrame s).schedule⟩
  | transmit ok => exact ⟨(transmit_correlatorFrame s ok).cfg, (transmit_correlatorFrame s ok).schedule⟩
  | wake => exact ⟨(wake_correlatorFrame s).cfg, (wake_correlatorFrame s).schedule⟩
  | spurious => exact ⟨(spuriousWake_correlatorFrame s).cfg, (spuriousWake_correlatorFrame s).schedule⟩
  | acquire | populate | timeOut | exit | emit | raiseSignal | reset => exact ⟨rfl, rfl⟩

/-- No operation writes the configuration, and none touches the schedule. -/
theorem exec_cfg_schedule {i : Instr} {s t : State} (h : exec i s = .next t) : t.cfg = s.cfg ∧ t.schedule = s.schedule :=
  exec_keeps (P := fun u => u.cfg = s.cfg ∧ u.schedule = s.schedule)
    (fun hu hstep => ⟨hstep.cfg_schedule.1.trans hu.1, hstep.cfg_schedule.2.trans hu.2⟩) ⟨rfl, rfl⟩ h

/-! ## The stage -/

/-- The rows of the sequencer's table, each with the step that takes it (rule R196). -/
inductive StageMove : Instr → Stage → Stage → Prop where
  | acquire (c : Byte) (p : List Byte) (cap : Half) (ack : Bool) : StageMove (.swAcq c p cap ack) .idle .locked
  | populate : StageMove .swPop .locked .populated
  | transmitted : StageMove (.swTx true) .populated .wait
  | writeFailed : StageMove (.swTx false) .populated .exit
  | woken : StageMove .swWake .wait .exit
  | wokenSpuriously : StageMove .swSpurious .wait .exit
  | timedOut : StageMove .swTimeout .wait .exit
  | exited : StageMove .swExit .exit .idle

/-- An operation other than RESET leaves the stage as it is, or makes its own move of the table. -/
theorem exec_stage {i : Instr} {s t : State} (h : exec i s = .next t) (hr : i ≠ .reset) :
    t.co.stage = s.co.stage ∨ StageMove i s.co.stage t.co.stage := by
  obtain ⟨he, rfl⟩ := exec_eq_next.mp h
  cases i with
  | reset => exact absurd rfl hr
  | frameAnswer _ _ | frameReceive _ | frameInvalid _ | frameUnknown _ | frameAck _ =>
    exact .inl (congrArg _ (feedAll_co _ s))
  | feed b | rxIdle b | rxCmd b | rxLenLo b | rxLenHi b | rxData b | rxCsum b | rxTerm b =>
    exact .inl (congrArg _ (feed_co b s))
  | dispatch | dispAnswer | dispInvalid | dispReceive => exact .inl (congrArg _ (dispatchFrame_feederFrame s).co)
  | sendAndWait _ _ _ _ | sendAndWaitAck _ _ _ =>
    have hl := lockFree_iff.mp ((Bool.and_eq_true _ _).mp he).2
    exact .inl hl.1.symm
  | swAcq c p cap ack =>
    have hl := lockFree_iff.mp ((Bool.and_eq_true _ _).mp he).2
    rw [hl.1]
    exact .inr (.acquire c p cap ack)
  | swPop =>
    rw [of_decide_eq_true he]
    exact .inr .populate
  | swTx ok =>
    rw [of_decide_eq_true he, effect, transmit_eq]
    cases ok
    · exact .inr .writeFailed
    · exact .inr .transmitted
  | swWake =>
    rw [effect, wake_eq]
    split
    · rw [(canWake_iff.mp he).1]
      exact .inr .woken
    · exact .inl rfl
  | swSpurious =>
    rw [effect, spuriousWake_eq]
    split
    · rw [canSpurious_iff.mp he]
      exact .inr .wokenSpuriously
    · exact .inl rfl
  | swTimeout =>
    rw [(canTimeout_iff.mp he).1]
    exact .inr .timedOut
  | swExit =>
    rw [of_decide_eq_true he]
    exact .inr .exited
  | frameCommand _ _ | cmdVersion | frameNack _ | csum8 _ | encode _ _ | encodeAck _ _ | hostRead _ | write _ _
  | raiseSignal | onReceive _ _ | log _ => exact .inl rfl

/-- Settles O45: the refusals by the guard of each step, the pairs by `exec_stage`. -/
theorem stageTransitionTable : Obligations.StageTransitionTable := by
  refine ⟨fun s => ⟨fun hs => ?_, fun ok hs => ?_, fun hs => ⟨if_neg hs, ?_, if_neg hs⟩, fun hs => ?_⟩,
    fun i s t h hr hne => ?_⟩
  · rw [exec, execSwPop, decide_eq_false hs, nextIf_false]
  · rw [exec, execSwTx, decide_eq_false hs, nextIf_false]
  · rw [exec, execSwSpurious, State.canSpurious, decide_eq_false hs, nextIf_false]
  · rw [exec, execSwExit, decide_eq_false hs, nextIf_false]
  · have hmove := (exec_stage h hr).resolve_left hne
    generalize s.co.stage = a, t.co.stage = b at hmove
    cases hmove <;> simp

/-! ## The inside of an exchange -/

/-- What the steps before SW.EXIT do to the rest of the block: the send sequence stands still, the answer sequence may catch up with
it, no return is made, and the signal comes with its event. -/
structure Interior (s t : State) : Prop where
  schedule : t.schedule = s.schedule
  sendSequence : t.pend.sendSequence = s.pend.sendSequence
  answerSequence : t.pend.answerSequence = s.pend.answerSequence ∨ t.pend.answerSequence = s.pend.sendSequence
  outputs : ∃ added, t.outputs = s.outputs ++ added ∧ (∀ st n, .ret st n ∉ added) ∧
    (t.sig = true → s.sig = true ∨ .raiseSignal ∈ added)

theorem Interior.refl (s : State) : Interior s s := ⟨rfl, rfl, .inl rfl, [], by simp, by simp, .inl⟩

theorem Interior.trans {s t u : State} (h : Interior s t) (h' : Interior t u) : Interior s u where
  schedule := h'.schedule.trans h.schedule
  sendSequence := h'.sendSequence.trans h.sendSequence
  answerSequence := by
    rcases h'.answerSequence with ha | ha
    · rw [ha]
      exact h.answerSequence
    · exact .inr (ha.trans h.sendSequence)
  outputs := by
    obtain ⟨added, hout, hret, hsig⟩ := h.outputs
    obtain ⟨added', hout', hret', hsig'⟩ := h'.outputs
    refine ⟨added ++ added', by rw [hout', hout, List.append_assoc], fun st n hmem => ?_, fun hu => ?_⟩
    · exact (List.mem_append.mp hmem).elim (hret st n) (hret' st n)
    · rcases hsig' hu with ht | hmem
      · exact (hsig ht).imp_right (List.mem_append_left _)
      · exact .inr (List.mem_append_right _ hmem)

section
variable (b : Byte) (s : State)

theorem ret_notMem_dispatchOutputs (st : Status) (n : Half) : .ret st n ∉ dispatchOutputs s := by
  unfold dispatchOutputs
  cases s.rx.type with
  | none | receive | invalid => simp
  | answer =>
    dsimp only
    split <;> simp

theorem ret_notMem_feedOutputs (st : Status) (n : Half) : .ret st n ∉ feedOutputs b s := by
  unfold feedOutputs
  cases s.rx.state with
  | idle | awaitLenLo | awaitData => simp
  | awaitCmd | awaitLenHi | awaitCsum =>
    dsimp only
    split <;> simp
  | awaitTerm =>
    dsimp only
    split
    · exact ret_notMem_dispatchOutputs s st n
    · simp

/-- A dispatch writes the answer sequence only for an invalid frame with a command pending (rule R172). -/
theorem dispatchFrame_answerSequence :
    (dispatchFrame s).pend.answerSequence = s.pend.answerSequence ∨
      (dispatchFrame s).pend.answerSequence = s.pend.sendSequence ∧ s.rx.type = .invalid ∧ s.pend.active = true := by
  cases ht : s.rx.type with
  | none => exact .inl (by rw [dispatchFrame_none ht])
  | answer =>
    rw [dispatchFrame_answer ht]
    by_cases ha : s.pend.answerSequence = s.pend.sendSequence
    · exact .inl (by rw [answerFrame_of_agree ha])
    · exact .inl (by rw [answerFrame_of_stale ha])
  | receive =>
    rw [dispatchFrame_receive ht]
    exact .inl rfl
  | invalid =>
    rw [dispatchFrame_invalid ht]
    cases ha : s.pend.active with
    | false => exact .inl (by simp [invalidFrame, ha])
    | true => exact .inr ⟨by simp [invalidFrame, ha], rfl, rfl⟩

/-- A FEED step writes the answer sequence where an answer is recognised, and in the dispatch of an invalid frame. -/
theorem feed_answerSequence :
    (feed b s).pend.answerSequence = s.pend.answerSequence ∨
      (feed b s).pend.answerSequence = s.pend.sendSequence ∧ s.pend.active = true ∧
        (b = s.pend.command ∧ s.rx.state = .awaitCmd ∨ b = s.cfg.eof ∧ s.rx.state = .awaitTerm ∧ s.rx.type = .invalid) := by
  cases hs : s.rx.state with
  | idle =>
    rw [feed_of_idle b hs, rxIdle]
    split <;> exact .inl rfl
  | awaitCmd =>
    rw [feed_of_awaitCmd b hs]
    by_cases hc : s.classified b = .none
    · exact .inl (by rw [rxCmd_of_unknown hc])
    · rw [rxCmd_of_classified hc]
      by_cases hp : s.pend.active = true ∧ b = s.pend.command
      · have ht : s.classified b = .answer := by rw [State.classified_eq, if_pos hp]
        exact .inr ⟨by simp [State.recognised, ht], hp.1, .inl ⟨hp.2, rfl⟩⟩
      · have ht : s.classified b ≠ .answer := by
          rw [State.classified_eq, if_neg hp]
          split
          · simp
          · split <;> simp
        exact .inl (by simp [State.recognised, ht])
  | awaitLenLo => exact .inl (by rw [feed_of_awaitLenLo b hs]; rfl)
  | awaitLenHi =>
    rw [feed_of_awaitLenHi b hs]
    by_cases hn : s.cfg.maxLen s.rx.command < setHighByte s.rx.length b
    · exact .inl (by rw [rxLenHi_of_over hn])
    · exact .inl (by rw [rxLenHi_of_within hn])
  | awaitData => exact .inl (by rw [feed_of_awaitData b hs, rxData_frame])
  | awaitCsum =>
    rw [feed_of_awaitCsum b hs, rxCsum]
    split
    · exact .inl rfl
    · exact .inl (by rw [State.raise_spec])
  | awaitTerm =>
    by_cases hb : b = s.cfg.eof
    · subst hb
      rw [feed_eof hs]
      exact (dispatchFrame_answerSequence s).imp_right fun ⟨hseq, ht, ha⟩ => ⟨hseq, ha, .inr ⟨rfl, rfl, ht⟩⟩
    · exact .inl (by rw [feed_of_awaitTerm b hs, rxTerm_of_ne_eof hb])

theorem feed_interior : Interior s (feed b s) :=
  ⟨feed_schedule b s, (feed_feederFrame b s).sendSequence, (feed_answerSequence b s).imp_right And.left,
    feedOutputs b s, feed_outputs b s, ret_notMem_feedOutputs b s, (feed_sig b s).mp⟩

theorem feedAll_interior (bs : List Byte) : Interior s (feedAll bs s) := by
  induction bs generalizing s with
  | nil => exact .refl s
  | cons b bs ih => exact (feed_interior b s).trans (ih _)

theorem acquire_interior (r : Request) : Interior s (acquire r s) := ⟨rfl, rfl, .inl rfl, [], by simp, by simp, .inl⟩

theorem populate_interior : Interior s (populate s) := ⟨rfl, rfl, .inl rfl, [], by simp, by simp, .inl⟩

theorem transmit_interior (ok : Bool) : Interior s (transmit ok s) := by
  rw [transmit_eq]
  exact ⟨rfl, rfl, .inl rfl, _, rfl, by simp, .inl⟩

theorem wake_interior : Interior s (wake s) := by
  rw [wake_eq]
  exact ⟨rfl, rfl, .inl rfl, [], by simp, by simp, by simp⟩

theorem spuriousWake_interior : Interior s (spuriousWake s) := by
  rw [spuriousWake_eq]
  exact ⟨rfl, rfl, .inl rfl, [], by simp, by simp, .inl⟩

theorem timeOut_interior : Interior s (timeOut s) := ⟨rfl, rfl, .inl rfl, [], by simp, by simp, .inl⟩

theorem waitMove_interior (m : WaitMove) : Interior s (waitMove m s) := by
  cases m with
  | feed b => exact feed_interior b s
  | wake =>
    rw [waitMove]
    split
    · exact wake_interior s
    · exact .refl s
  | spurious =>
    rw [waitMove]
    split
    · exact spuriousWake_interior s
    · exact .refl s
  | timeout =>
    rw [waitMove]
    split
    · exact timeOut_interior s
    · exact .refl s

theorem waitMoves_interior (ms : List WaitMove) : Interior s (waitMoves ms s) := by
  induction ms generalizing s with
  | nil => exact .refl s
  | cons m ms ih => exact (waitMove_interior s m).trans (ih _)

theorem beforeTransmit_interior (r : Request) (plan : ExchangePlan) : Interior s (beforeTransmit r plan s) :=
  ((acquire_interior s r).trans (feedAll_interior _ _)).trans ((populate_interior _).trans (feedAll_interior _ _))

theorem beforeExit_interior (r : Request) (plan : ExchangePlan) : Interior s (beforeExit r plan s) :=
  (beforeTransmit_interior s r plan).trans ((transmit_interior _ _).trans (waitMoves_interior _ _))

theorem dispatchFrame_interior : Interior s (dispatchFrame s) :=
  ⟨(dispatchFrame_feederFrame s).schedule, (dispatchFrame_feederFrame s).sendSequence,
    (dispatchFrame_answerSequence s).imp_right And.left, dispatchOutputs s, dispatchFrame_outputs s,
    ret_notMem_dispatchOutputs s, (dispatchFrame_sig s).mp⟩

theorem emit_interior {o : Output} (h : ∀ st n, o ≠ .ret st n) : Interior s (s.emit o) :=
  ⟨rfl, rfl, .inl rfl, [o], rfl, fun st n hmem => h st n (List.mem_singleton.mp hmem).symm, .inl⟩

theorem raiseSignal_interior : Interior s s.raiseSignal := ⟨rfl, rfl, .inl rfl, [.raiseSignal], rfl, by simp, by simp⟩

end

/-- An operation is one of the two pseudo-operations. -/
def Pseudo (i : Instr) : Prop := (∃ c p cap plan, i = .sendAndWait c p cap plan) ∨ ∃ c p plan, i = .sendAndWaitAck c p plan

/-- Short of RESET an operation stays inside an exchange, or is SW.EXIT, or is a whole exchange. -/
theorem exec_interior {i : Instr} {s t : State} (h : exec i s = .next t) (hr : i ≠ .reset) :
    Interior s t ∨ (i = .swExit ∧ t = exitExchange s) ∨ (Pseudo i ∧ ∃ u, Interior s u ∧ t = exitExchange u) := by
  obtain ⟨-, rfl⟩ := exec_eq_next.mp h
  cases i with
  | reset => exact absurd rfl hr
  | frameAnswer _ _ | frameReceive _ | frameInvalid _ | frameUnknown _ | frameAck _ => exact .inl (feedAll_interior s _)
  | feed b | rxIdle b | rxCmd b | rxLenLo b | rxLenHi b | rxData b | rxCsum b | rxTerm b => exact .inl (feed_interior b s)
  | dispatch | dispAnswer | dispInvalid | dispReceive => exact .inl (dispatchFrame_interior s)
  | sendAndWait c p cap plan =>
    exact .inr (.inr ⟨.inl ⟨c, p, cap, plan, rfl⟩, _, beforeExit_interior s _ plan, exchange_eq _ plan s⟩)
  | sendAndWaitAck c p plan =>
    exact .inr (.inr ⟨.inr ⟨c, p, plan, rfl⟩, _, beforeExit_interior s _ plan, exchange_eq _ plan s⟩)
  | swAcq _ _ _ _ => exact .inl (acquire_interior s _)
  | swPop => exact .inl (populate_interior s)
  | swTx ok => exact .inl (transmit_interior s ok)
  | swWake => exact .inl (wake_interior s)
  | swSpurious => exact .inl (spuriousWake_interior s)
  | swTimeout => exact .inl (timeOut_interior s)
  | swExit => exact .inr (.inl ⟨rfl, rfl⟩)
  | raiseSignal => exact .inl (raiseSignal_interior s)
  | frameCommand _ _ | cmdVersion | frameNack _ | csum8 _ | encode _ _ | encodeAck _ _ | hostRead _ | write _ _
  | onReceive _ _ | log _ => exact .inl (emit_interior s (by simp))

/-! ## The two sequences -/

theorem exec_sendSequence {i : Instr} {s t : State} (h : exec i s = .next t) (hr : i ≠ .reset) :
    t.pend.sendSequence = s.pend.sendSequence ∨
      t.pend.sendSequence = s.pend.sendSequence + 1 ∧ (i = .swExit ∨ Pseudo i) := by
  rcases exec_interior h hr with hin | ⟨hi, rfl⟩ | ⟨hi, u, hin, rfl⟩
  · exact .inl hin.sendSequence
  · exact .inr ⟨rfl, .inl hi⟩
  · refine .inr ⟨?_, .inr hi⟩
    rw [← hin.sendSequence]
    rfl

/-- The places where a single byte, or a dispatch, writes the answer sequence. -/
def AnswerSequenceWriter (i : Instr) (s : State) : Prop :=
  i ∈ [Instr.feed s.pend.command, .rxCmd s.pend.command] ∧ s.rx.state = .awaitCmd ∧ s.pend.active = true ∨
  i ∈ [Instr.feed s.cfg.eof, .rxTerm s.cfg.eof, .dispatch, .dispInvalid] ∧ s.rx.state = .awaitTerm ∧
    s.rx.type = .invalid ∧ s.pend.active = true

theorem feed_answerSequence_writer {i : Instr} {b : Byte} {s : State} (hi : i = .feed b ∨ i = selectArm s.rx.state b) :
    (feed b s).pend.answerSequence = s.pend.answerSequence ∨
      (feed b s).pend.answerSequence = s.pend.sendSequence ∧ AnswerSequenceWriter i s := by
  rcases feed_answerSequence b s with hkeep | ⟨hseq, ha, ⟨rfl, hs⟩ | ⟨rfl, hs, ht⟩⟩
  · exact .inl hkeep
  · refine .inr ⟨hseq, .inl ⟨?_, hs, ha⟩⟩
    rcases hi with rfl | rfl <;> simp [hs, selectArm]
  · refine .inr ⟨hseq, .inr ⟨?_, hs, ht, ha⟩⟩
    rcases hi with rfl | rfl <;> simp [hs, selectArm]

theorem dispatchFrame_answerSequence_writer {i : Instr} {s : State} (hs : s.rx.state = .awaitTerm)
    (hi : i = .dispatch ∨ i = .dispInvalid ∨ s.rx.type ≠ .invalid) :
    (dispatchFrame s).pend.answerSequence = s.pend.answerSequence ∨
      (dispatchFrame s).pend.answerSequence = s.pend.sendSequence ∧ AnswerSequenceWriter i s := by
  refine (dispatchFrame_answerSequence s).imp_right fun ⟨hseq, ht, ha⟩ => ⟨hseq, .inr ⟨?_, hs, ht, ha⟩⟩
  rcases hi with rfl | rfl | hne
  · simp
  · simp
  · exact absurd ht hne

/-- An operation is a frame row from the peer. -/
def ReceivedRow (i : Instr) : Prop :=
  ∃ c p, i ∈ [Instr.frameAnswer c p, .frameReceive p, .frameInvalid p, .frameUnknown c, .frameAck c]

/-- Every operation either keeps the answer sequence or, short of RESET, sets it to the send sequence. -/
theorem exec_answerSequence_values {i : Instr} {s t : State} (h : exec i s = .next t) (hr : i ≠ .reset) :
    t.pend.answerSequence = s.pend.answerSequence ∨ t.pend.answerSequence = s.pend.sendSequence := by
  rcases exec_interior h hr with hin | ⟨-, rfl⟩ | ⟨-, u, hin, rfl⟩
  · exact hin.answerSequence
  · exact .inl rfl
  · exact hin.answerSequence

/-- Where it is set, the operation is a byte or a dispatch at its place, a row from the peer, or a whole exchange. -/
theorem exec_answerSequence {i : Instr} {s t : State} (h : exec i s = .next t) (hr : i ≠ .reset) :
    t.pend.answerSequence = s.pend.answerSequence ∨
      t.pend.answerSequence = s.pend.sendSequence ∧ (AnswerSequenceWriter i s ∨ ReceivedRow i ∨ Pseudo i) := by
  have hvalues := exec_answerSequence_values h hr
  obtain ⟨he, rfl⟩ := exec_eq_next.mp h
  have hwriter {u : State} (hu : u.pend.answerSequence = s.pend.answerSequence ∨
      u.pend.answerSequence = s.pend.sendSequence ∧ AnswerSequenceWriter i s) :
      u.pend.answerSequence = s.pend.answerSequence ∨
        u.pend.answerSequence = s.pend.sendSequence ∧ (AnswerSequenceWriter i s ∨ ReceivedRow i ∨ Pseudo i) :=
    hu.imp_right (And.imp_right Or.inl)
  cases i with
  | reset => exact absurd rfl hr
  | frameAnswer c p => exact hvalues.imp_right fun hseq => ⟨hseq, .inr (.inl ⟨c, p, by simp⟩)⟩
  | frameReceive p | frameInvalid p => exact hvalues.imp_right fun hseq => ⟨hseq, .inr (.inl ⟨0, p, by simp⟩)⟩
  | frameUnknown c | frameAck c => exact hvalues.imp_right fun hseq => ⟨hseq, .inr (.inl ⟨c, [], by simp⟩)⟩
  | sendAndWait c p cap plan => exact hvalues.imp_right fun hseq => ⟨hseq, .inr (.inr (.inl ⟨c, p, cap, plan, rfl⟩))⟩
  | sendAndWaitAck c p plan => exact hvalues.imp_right fun hseq => ⟨hseq, .inr (.inr (.inr ⟨c, p, plan, rfl⟩))⟩
  | feed b => exact hwriter (feed_answerSequence_writer (.inl rfl))
  | rxIdle b | rxCmd b | rxLenLo b | rxLenHi b | rxData b | rxCsum b | rxTerm b =>
    exact hwriter (feed_answerSequence_writer (.inr (by rw [of_decide_eq_true he]; rfl)))
  | dispatch =>
    exact hwriter (dispatchFrame_answerSequence_writer (of_decide_eq_true ((Bool.and_eq_true _ _).mp he).1) (.inl rfl))
  | dispInvalid =>
    exact hwriter (dispatchFrame_answerSequence_writer (of_decide_eq_true ((Bool.and_eq_true _ _).mp he).1) (.inr (.inl rfl)))
  | dispAnswer | dispReceive =>
    obtain ⟨hs, ht⟩ := (Bool.and_eq_true _ _).mp he
    exact hwriter (dispatchFrame_answerSequence_writer (of_decide_eq_true hs) (.inr (.inr (by simp [of_decide_eq_true ht]))))
  | swTx ok => exact .inl (congrArg _ (transmit_pend s ok))
  | swWake => exact .inl (congrArg _ (wake_pend s))
  | swSpurious => exact .inl (congrArg _ (spuriousWake_pend s))
  | swAcq _ _ _ _ | swPop | swTimeout | swExit | frameCommand _ _ | cmdVersion | frameNack _ | csum8 _ | encode _ _
  | encodeAck _ _ | hostRead _ | write _ _ | raiseSignal | onReceive _ _ | log _ => exact .inl rfl

/-- Settles O56: the three laws above, side by side. -/
theorem sequenceAndConfigurationWriters : Obligations.SequenceAndConfigurationWriters := by
  refine fun i s t h => ⟨(exec_cfg_schedule h).1, exec_sendSequence h, fun hr => ?_⟩
  refine (exec_answerSequence h hr).imp_right fun ⟨hseq, hw⟩ => ⟨hseq, ?_⟩
  rcases hw with (hcommand | hterminator) | hrow | hpseudo
  · exact .inl hcommand
  · exact .inr (.inl hterminator)
  · exact .inr (.inr (.inl hrow))
  · exact .inr (.inr (.inr hpseudo))

/-! ## The signal -/

/-- An operation that sets the signal has its event among the outputs it appended. -/
theorem exec_signal {i : Instr} {s t : State} (h : exec i s = .next t) :
    ∃ added, t.outputs = s.outputs ++ added ∧ (t.sig = true → s.sig = true ∨ .raiseSignal ∈ added) := by
  by_cases hr : i = .reset
  · subst hr
    obtain ⟨-, rfl⟩ := exec_eq_next.mp h
    exact ⟨[], by simp [effect, resetBlock], by simp [effect, resetBlock, State.powerOn]⟩
  · rcases exec_interior h hr with hin | ⟨-, rfl⟩ | ⟨-, u, hin, rfl⟩
    · obtain ⟨added, hout, -, hsig⟩ := hin.outputs
      exact ⟨added, hout, hsig⟩
    · exact ⟨_, exitExchange_outputs s, .inl⟩
    · obtain ⟨added, hout, -, hsig⟩ := hin.outputs
      exact ⟨added ++ [_], by rw [exitExchange_outputs, hout, List.append_assoc],
        fun ht => (hsig ht).imp_right (List.mem_append_left _)⟩

/-- The steps of the correlator, the host's read, the pure functions and RESET append no signal and set none. -/
theorem effect_quiet {i : Instr} {s : State} {c : Byte} {p : List Byte} {cap : Half} {flag : Bool} {k : Nat}
    (hi : i ∈ [Instr.swAcq c p cap flag, .swPop, .swTx flag, .swWake, .swSpurious, .swTimeout, .swExit, .hostRead k, .csum8 p,
      .encode c p, .encodeAck c flag, .reset]) :
    ((effect i s).sig = true → s.sig = true) ∧
      ∃ added, (effect i s).outputs = s.outputs ++ added ∧ .raiseSignal ∉ added := by
  simp only [List.mem_cons, List.not_mem_nil, or_false] at hi
  rcases hi with rfl | rfl | rfl | rfl | rfl | rfl | rfl | rfl | rfl | rfl | rfl | rfl
  · exact ⟨id, [], by simp [effect], by simp⟩
  · exact ⟨id, [], by simp [effect], by simp⟩
  · exact ⟨(transmit_correlatorFrame s flag).sig, _, by rw [effect, transmit_eq], by simp⟩
  · exact ⟨(wake_correlatorFrame s).sig, [], by simp [effect, wake_eq], by simp⟩
  · exact ⟨(spuriousWake_correlatorFrame s).sig, [], by simp [effect, spuriousWake_eq], by simp⟩
  · exact ⟨id, [], by simp [effect], by simp⟩
  · exact ⟨id, _, exitExchange_outputs s, by simp⟩
  iterate 4 exact ⟨id, _, rfl, by simp⟩
  · exact ⟨by simp [effect, resetBlock, State.powerOn], [], by simp [effect, resetBlock], by simp⟩

/-- Settles O57: the byte by its events, the quiet operations one by one, every own step by `exec_signal`. -/
theorem signalIsRaisedByDispatchOnly : Obligations.SignalIsRaisedByDispatchOnly := by
  refine ⟨fun s t i b hi h => ?_, fun s t i c p cap flag k hi h => ?_, fun i s t _ h hs ht => ?_⟩
  · obtain ⟨-, rfl⟩ := exec_eq_next.mp h
    have hfeed : effect i s = feed b s := by
      simp only [List.mem_cons, List.not_mem_nil, or_false] at hi
      rcases hi with rfl | rfl | rfl | rfl | rfl | rfl | rfl | rfl <;> rfl
    rw [hfeed]
    exact ⟨_, feed_outputs b s, feed_sig b s, raiseSignal_mem_feedOutputs b s⟩
  · obtain ⟨-, rfl⟩ := exec_eq_next.mp h
    exact effect_quiet hi
  · obtain ⟨added, hout, hsig⟩ := exec_signal h
    have hmem : .raiseSignal ∈ added := (hsig ht).resolve_left (by simp [hs])
    obtain ⟨before, after, rfl⟩ := List.append_of_mem hmem
    exact ⟨before, after, by simp [hout]⟩

end Sys2Proof.Machine
end

section
/-! The invariant of the reachable states (10_state.md sections 3, 4 and 7): its three parts, and that every step keeps it. -/

namespace Sys2Proof.Machine

/-! ## The three parts -/

/-- The part about the Receive Context (rules R25 to R27, R47 b, f, g, h). -/
structure RxInv (cfg : Config) (rx : Rx) : Prop where
  typeTarget : rx.target = targetOf rx.type
  capacity : capacityAllowed cfg rx.target rx.capacity = true
  counterLe : rx.counter ≤ rx.length
  counterStart : beforeData rx.state = true → rx.counter = 0
  dataPhase : rx.state = .awaitData → rx.counter < rx.length ∧ rx.length ≤ cfg.maxLen rx.command
  footerPhase : rx.state = .awaitCsum ∨ rx.state = .awaitTerm → rx.counter = rx.length ∧ rx.length ≤ cfg.maxLen rx.command
  classified : pastCommand rx.state = true → rx.type ≠ .none

/-- The part about the exchange in progress (rules R31, R34, R36, R37, R47 d, e). -/
structure ExchangeInv (s : State) : Prop where
  pendingStage : s.pend.active = commandPending s.co.stage
  nonePending : s.pend.active = false → s.pend.command = 0 ∧ s.pend.answerCapacity = 0
  offered : s.pend.answerCapacity ≤ s.cfg.ansMax
  lockStage : s.lock = decide (s.co.stage ≠ .idle)
  request : s.co.stage ≠ .idle → s.inRange s.rq = true

/-- The part about the two memories (rules R43, R61). -/
structure MemoryInv (s : State) : Prop where
  ans : Memory.wf s.ans = true ∧ Memory.within s.cfg.ansMax.toNat s.ans = true
  rxbuf : Memory.wf s.rxbuf = true ∧ Memory.within s.cfg.rxbufCap.toNat s.rxbuf = true

theorem inv_iff {s : State} : Inv s ↔ s.cfg.wf = true ∧ RxInv s.cfg s.rx ∧ ExchangeInv s ∧ MemoryInv s := by
  constructor
  · intro h
    exact ⟨h.config, ⟨h.typeTarget, h.capacity, h.counterLe, h.counterStart, h.dataPhase, h.footerPhase, h.classified⟩,
      ⟨h.pendingStage, h.nonePending, h.offered, h.lockStage, h.request⟩, ⟨h.ansForm, h.rxbufForm⟩⟩
  · rintro ⟨hcfg, hrx, hex, hmem⟩
    exact ⟨hcfg, hrx.typeTarget, hrx.capacity, hrx.counterLe, hrx.counterStart, hrx.dataPhase, hrx.footerPhase, hrx.classified,
      hex.pendingStage, hex.nonePending, hex.offered, hex.lockStage, hex.request, hmem.ans, hmem.rxbuf⟩

/-! ## Reset -/

theorem Half.zero_le (n : Half) : 0 ≤ n := by bv_omega

theorem rxInv_reset (cfg : Config) : RxInv cfg Rx.reset := by
  constructor <;> simp [Rx.reset, targetOf, capacityAllowed, pastCommand]

theorem inv_powerOn {cfg : Config} (h : cfg.wf = true) : Inv (State.powerOn cfg) :=
  inv_iff.mpr ⟨h, rxInv_reset cfg,
    ⟨rfl, fun _ => ⟨rfl, rfl⟩, Half.zero_le _, rfl, fun hne => absurd rfl hne⟩, ⟨rfl, rfl⟩, rfl, rfl⟩

/-- Settles O14: the three parts of the invariant at reset. -/
theorem resetHasTheInvariant : Obligations.ResetHasTheInvariant :=
  ⟨fun _ => inv_powerOn, inv_powerOn (by decide)⟩

/-! ## The Receive Context -/

/-- Back in `IDLE` the phases say nothing. -/
theorem RxInv.toIdle {cfg : Config} {rx : Rx} (h : RxInv cfg rx) : RxInv cfg { rx with state := .idle } :=
  ⟨h.typeTarget, h.capacity, h.counterLe, by simp [beforeData], by simp, by simp, by simp [pastCommand]⟩

/-- The type of a frame gets a capacity of its target. -/
theorem capacityAllowed_capacityOf {s : State} (h : s.pend.answerCapacity ≤ s.cfg.ansMax) (t : FrameType) :
    capacityAllowed s.cfg (targetOf t) (s.capacityOf t) = true := by
  cases t with
  | none | receive | invalid => simp [targetOf, State.capacityOf, capacityAllowed]
  | answer => exact decide_eq_true h

/-- In the payload or right behind it, as RX.LENHI and RX.DATA leave the receiver (rules R146, R148 to R150). -/
theorem RxInv.ofPayload {cfg : Config} {rx : Rx} {c : Prop} [Decidable c] (htt : rx.target = targetOf rx.type)
    (hcap : capacityAllowed cfg rx.target rx.capacity = true) (hle : rx.counter ≤ rx.length)
    (hmax : rx.length ≤ cfg.maxLen rx.command) (htype : rx.type ≠ .none) (hc : c ↔ rx.counter = rx.length)
    (hst : rx.state = if c then .awaitCsum else .awaitData) : RxInv cfg rx := by
  by_cases h : c
  · rw [if_pos h] at hst
    exact ⟨htt, hcap, hle, by simp [hst, beforeData], by simp [hst], fun _ => ⟨hc.mp h, hmax⟩, fun _ => htype⟩
  · rw [if_neg h] at hst
    exact ⟨htt, hcap, hle, by simp [hst, beforeData], fun _ => ⟨BitVec.lt_of_le_ne hle (mt hc.mpr h), hmax⟩, by simp [hst],
      fun _ => htype⟩

section
variable {s : State} {b : Byte}

theorem rxIdle_rxInv (h : RxInv s.cfg s.rx) : RxInv s.cfg (rxIdle b s).rx := by
  unfold rxIdle
  split
  · constructor <;> simp [Rx.reset, targetOf, capacityAllowed, pastCommand]
  · exact h

theorem rxCmd_rxInv (hs : s.rx.state = .awaitCmd) (h : RxInv s.cfg s.rx) (hoffered : s.pend.answerCapacity ≤ s.cfg.ansMax) :
    RxInv s.cfg (rxCmd b s).rx := by
  by_cases hc : s.classified b = .none
  · rw [rxCmd_of_unknown hc]
    exact ⟨h.typeTarget, h.capacity, h.counterLe, by simp [beforeData], by simp, by simp, by simp [pastCommand]⟩
  · rw [rxCmd_of_classified hc]
    have hzero : s.rx.counter = 0 := h.counterStart (by simp [hs, beforeData])
    exact ⟨rfl, capacityAllowed_capacityOf hoffered _, h.counterLe, fun _ => hzero, by simp, by simp, fun _ => hc⟩

theorem rxLenLo_rxInv (hs : s.rx.state = .awaitLenLo) (h : RxInv s.cfg s.rx) : RxInv s.cfg (rxLenLo b s).rx := by
  have hzero : s.rx.counter = 0 := h.counterStart (by simp [hs, beforeData])
  have htype : s.rx.type ≠ .none := h.classified (by simp [hs, pastCommand])
  have hle : (rxLenLo b s).rx.counter ≤ (rxLenLo b s).rx.length := by rw [rxLenLo, hzero]; exact Half.zero_le _
  exact ⟨h.typeTarget, h.capacity, hle, fun _ => hzero, by simp [rxLenLo], by simp [rxLenLo], fun _ => htype⟩

theorem rxLenHi_rxInv (hs : s.rx.state = .awaitLenHi) (h : RxInv s.cfg s.rx) : RxInv s.cfg (rxLenHi b s).rx := by
  have hzero : s.rx.counter = 0 := h.counterStart (by simp [hs, beforeData])
  have htype : s.rx.type ≠ .none := h.classified (by simp [hs, pastCommand])
  by_cases hn : s.cfg.maxLen s.rx.command < setHighByte s.rx.length b
  · rw [rxLenHi_of_over hn]
    exact ⟨h.typeTarget, h.capacity, by rw [hzero]; exact Half.zero_le _, by simp [beforeData], by simp, by simp,
      by simp [pastCommand]⟩
  · rw [rxLenHi_of_within hn]
    exact .ofPayload h.typeTarget h.capacity (by rw [hzero]; exact Half.zero_le _) (BitVec.not_lt.mp hn) htype
      (by rw [hzero]; exact eq_comm) rfl

theorem rxData_rxInv (hs : s.rx.state = .awaitData) (h : RxInv s.cfg s.rx) : RxInv s.cfg (rxData b s).rx := by
  obtain ⟨hlt, hmax⟩ := h.dataPhase hs
  have htype : s.rx.type ≠ .none := h.classified (by simp [hs, pastCommand])
  have hle : s.rx.counter + 1 ≤ s.rx.length := by bv_omega
  rw [rxData_frame]
  exact .ofPayload h.typeTarget h.capacity hle hmax htype Iff.rfl rfl

theorem rxCsum_rxInv (hs : s.rx.state = .awaitCsum) (h : RxInv s.cfg s.rx) : RxInv s.cfg (rxCsum b s).rx := by
  have htype : s.rx.type ≠ .none := h.classified (by simp [hs, pastCommand])
  have hfooter := h.footerPhase (.inl hs)
  unfold rxCsum
  split
  · exact ⟨h.typeTarget, h.capacity, h.counterLe, by simp [beforeData], by simp, fun _ => hfooter, fun _ => htype⟩
  · rw [State.raise_checksumMismatch]
    exact h.toIdle

theorem rxTerm_rxInv (h : RxInv s.cfg s.rx) : RxInv s.cfg (rxTerm b s).rx := by
  by_cases hb : b = s.cfg.eof
  · subst hb
    rw [rxTerm_eof]
    exact h.toIdle
  · rw [rxTerm_of_ne_eof hb]
    exact h.toIdle

theorem feed_rxInv (h : RxInv s.cfg s.rx) (hoffered : s.pend.answerCapacity ≤ s.cfg.ansMax) :
    RxInv s.cfg (feed b s).rx := by
  cases hs : s.rx.state with
  | idle => rw [feed_of_idle b hs]; exact rxIdle_rxInv h
  | awaitCmd => rw [feed_of_awaitCmd b hs]; exact rxCmd_rxInv hs h hoffered
  | awaitLenLo => rw [feed_of_awaitLenLo b hs]; exact rxLenLo_rxInv hs h
  | awaitLenHi => rw [feed_of_awaitLenHi b hs]; exact rxLenHi_rxInv hs h
  | awaitData => rw [feed_of_awaitData b hs]; exact rxData_rxInv hs h
  | awaitCsum => rw [feed_of_awaitCsum b hs]; exact rxCsum_rxInv hs h
  | awaitTerm => rw [feed_of_awaitTerm b hs]; exact rxTerm_rxInv h

end

/-! ## The memories -/

theorem storePayload_memoryInv {s : State} (h : MemoryInv s) (b : Byte) : MemoryInv (storePayload b s) := by
  unfold storePayload
  split
  · cases s.rx.target with
    | none => exact h
    | ans =>
      refine ⟨?_, ?_⟩
      · rw [State.storeAns_cfg]
        exact State.storeAns_keeps_form h.ans _ b
      · rw [State.storeAns_cfg, State.storeAns_rxbuf]
        exact h.rxbuf
    | rxbuf =>
      refine ⟨?_, ?_⟩
      · rw [State.storeRxbuf_cfg, State.storeRxbuf_ans]
        exact h.ans
      · rw [State.storeRxbuf_cfg]
        exact State.storeRxbuf_keeps_form h.rxbuf _ b
  · exact h

/-- Only RX.DATA writes a memory. -/
theorem feed_memories_of_ne_awaitData {s : State} (hs : s.rx.state ≠ .awaitData) (b : Byte) :
    (feed b s).ans = s.ans ∧ (feed b s).rxbuf = s.rxbuf := by
  by_cases hd : s.rx.state = .awaitTerm ∧ b = s.cfg.eof
  · obtain ⟨ht, rfl⟩ := hd
    rw [feed_eof ht, dispatchFrame_spec]
    exact ⟨rfl, rfl⟩
  · rw [feed_of_control hs hd]
    exact ⟨rfl, rfl⟩

theorem feed_memoryInv {s : State} (h : MemoryInv s) (b : Byte) : MemoryInv (feed b s) := by
  by_cases hs : s.rx.state = .awaitData
  · rw [feed_of_awaitData b hs]
    exact ⟨(storePayload_memoryInv (s := foldByte s b) ⟨h.ans, h.rxbuf⟩ b).ans,
      (storePayload_memoryInv (s := foldByte s b) ⟨h.ans, h.rxbuf⟩ b).rxbuf⟩
  · obtain ⟨hans, hrxbuf⟩ := feed_memories_of_ne_awaitData hs b
    exact ⟨by rw [hans, feed_cfg]; exact h.ans, by rw [hrxbuf, feed_cfg]; exact h.rxbuf⟩

/-! ## The exchange -/

/-- The feeder touches nothing that the exchange's part speaks of. -/
theorem ExchangeInv.of_feederFrame {s t : State} (h : ExchangeInv s) (hf : FeederFrame s t) : ExchangeInv t := by
  obtain ⟨hcfg, hco, hrq, hlock, -, -, -, hactive, hcommand, -, hcapacity, -⟩ := hf
  constructor
  · rw [hactive, hco]; exact h.pendingStage
  · rw [hactive, hcommand, hcapacity]; exact h.nonePending
  · rw [hcapacity, hcfg]; exact h.offered
  · rw [hlock, hco]; exact h.lockStage
  · rw [State.inRange, hco, hrq, hcfg]; exact h.request

section
variable {s : State}

theorem acquire_exchangeInv {r : Request} (h : ExchangeInv s) (hr : s.inRange r = true) (hl : s.lockFree = true) :
    ExchangeInv (acquire r s) := by
  have hnone : s.pend.active = false := by rw [h.pendingStage, (lockFree_iff.mp hl).1]; rfl
  exact ⟨hnone, h.nonePending, h.offered, rfl, fun _ => hr⟩

theorem populate_exchangeInv (h : ExchangeInv s) (hs : s.co.stage = .locked) : ExchangeInv (populate s) := by
  have hr : s.inRange s.rq = true := h.request (by simp [hs])
  have hl : s.lock = true := by rw [h.lockStage, hs]; rfl
  exact ⟨rfl, by simp, (inRange_iff.mp hr).2, hl, fun _ => hr⟩

/-- A step that moves an exchange from one pending stage to another keeps the exchange's part. -/
theorem ExchangeInv.of_pending {t : State} (h : ExchangeInv s) (hs : commandPending s.co.stage = true)
    (ht : commandPending t.co.stage = true) (hcfg : t.cfg = s.cfg) (hpend : t.pend = s.pend) (hrq : t.rq = s.rq)
    (hlock : t.lock = s.lock) : ExchangeInv t := by
  have hbusy {st : Stage} (h : commandPending st = true) : st ≠ .idle := by rintro rfl; simp [commandPending] at h
  constructor
  · rw [hpend, h.pendingStage, hs, ht]
  · rw [hpend]; exact h.nonePending
  · rw [hpend, hcfg]; exact h.offered
  · rw [hlock, h.lockStage, decide_eq_true (hbusy hs), decide_eq_true (hbusy ht)]
  · rw [State.inRange, hrq, hcfg]; exact fun _ => h.request (hbusy hs)

theorem exitExchange_exchangeInv : ExchangeInv (exitExchange s) :=
  ⟨rfl, fun _ => ⟨rfl, rfl⟩, Half.zero_le _, rfl, fun hne => absurd rfl hne⟩

end

/-! ## Every step -/

/-- The correlator touches neither the Receive Context nor the memories. -/
theorem Inv.of_correlatorFrame {s t : State} (h : Inv s) (hf : CorrelatorFrame s t) (hex : ExchangeInv t) : Inv t := by
  obtain ⟨hcfg, hrx, hans, hrxbuf, -, -, -, -, -⟩ := hf
  obtain ⟨hwf, hrxi, -, hmem⟩ := inv_iff.mp h
  refine inv_iff.mpr ⟨hcfg ▸ hwf, by rw [hcfg, hrx]; exact hrxi, hex, ?_, ?_⟩
  · rw [hcfg, hans]; exact hmem.ans
  · rw [hcfg, hrxbuf]; exact hmem.rxbuf

theorem Inv.exchangeInv {s : State} (h : Inv s) : ExchangeInv s := (inv_iff.mp h).2.2.1

theorem feed_inv {s : State} (h : Inv s) (b : Byte) : Inv (feed b s) := by
  obtain ⟨hwf, hrx, hex, hmem⟩ := inv_iff.mp h
  refine inv_iff.mpr ⟨?_, ?_, hex.of_feederFrame (feed_feederFrame b s), feed_memoryInv hmem b⟩
  · rw [feed_cfg]; exact hwf
  · rw [feed_cfg]; exact feed_rxInv hrx hex.offered

theorem dispatchFrame_inv {s : State} (h : Inv s) : Inv (dispatchFrame s) := by
  obtain ⟨hwf, hrx, hex, hmem⟩ := inv_iff.mp h
  have hex' := hex.of_feederFrame (dispatchFrame_feederFrame s)
  refine inv_iff.mpr ⟨?_, ?_, hex', ?_⟩
  · rw [dispatchFrame_cfg]; exact hwf
  · rw [dispatchFrame_cfg, dispatchFrame_rx]; exact hrx
  · rw [dispatchFrame_spec]; exact ⟨hmem.ans, hmem.rxbuf⟩

/-- The trace, the signal, the schedule, the counters and the two fields an answer writes are no part of the invariant. -/
theorem Inv.congr {s t : State} (h : Inv s) (hcfg : t.cfg = s.cfg) (hrx : t.rx = s.rx) (hpend : t.pend = s.pend) (hco : t.co = s.co)
    (hrq : t.rq = s.rq) (hlock : t.lock = s.lock) (hans : t.ans = s.ans) (hrxbuf : t.rxbuf = s.rxbuf) : Inv t := by
  obtain ⟨hwf, hrxi, hex, hmem⟩ := inv_iff.mp h
  refine inv_iff.mpr ⟨hcfg ▸ hwf, by rw [hcfg, hrx]; exact hrxi, ⟨?_, ?_, ?_, ?_, ?_⟩, ?_, ?_⟩
  · rw [hpend, hco]; exact hex.pendingStage
  · rw [hpend]; exact hex.nonePending
  · rw [hpend, hcfg]; exact hex.offered
  · rw [hlock, hco]; exact hex.lockStage
  · rw [State.inRange, hco, hrq, hcfg]; exact hex.request
  · rw [hcfg, hans]; exact hmem.ans
  · rw [hcfg, hrxbuf]; exact hmem.rxbuf

theorem AtomicStep.inv {s t : State} (h : Inv s) (hstep : AtomicStep s t) : Inv t := by
  have hex := h.exchangeInv
  have hwait (hs : s.co.stage = .wait) : commandPending s.co.stage = true := by rw [hs]; rfl
  cases hstep with
  | feed b => exact feed_inv h b
  | dispatch => exact dispatchFrame_inv h
  | acquire r hr hl => exact h.of_correlatorFrame (acquire_correlatorFrame s r) (acquire_exchangeInv hex hr hl)
  | populate hs => exact h.of_correlatorFrame (populate_correlatorFrame s) (populate_exchangeInv hex hs)
  | transmit ok hs =>
    refine h.of_correlatorFrame (transmit_correlatorFrame s ok) (hex.of_pending (by rw [hs]; rfl) ?_ ?_ ?_ ?_ ?_) <;>
      rw [transmit_eq]
    cases ok <;> rfl
  | wake hw =>
    have hs := (canWake_iff.mp hw).1
    refine h.of_correlatorFrame (wake_correlatorFrame s) (hex.of_pending (hwait hs) ?_ ?_ ?_ ?_ ?_) <;> rw [wake_eq]
    split
    · rfl
    · exact hwait hs
  | spurious hw =>
    have hs := canSpurious_iff.mp hw
    refine h.of_correlatorFrame (spuriousWake_correlatorFrame s) (hex.of_pending (hwait hs) ?_ ?_ ?_ ?_ ?_) <;>
      rw [spuriousWake_eq]
    split
    · rfl
    · exact hwait hs
  | timeOut hw =>
    have hs := (canTimeout_iff.mp hw).1
    exact h.of_correlatorFrame (timeOut_correlatorFrame s) (hex.of_pending (hwait hs) rfl rfl rfl rfl rfl)
  | exit => exact h.of_correlatorFrame (exitExchange_correlatorFrame s) exitExchange_exchangeInv
  | emit | raiseSignal => exact h.congr rfl rfl rfl rfl rfl rfl rfl rfl
  | reset => exact (inv_powerOn h.config).congr rfl rfl rfl rfl rfl rfl rfl rfl

/-- Every operation keeps the invariant. -/
theorem exec_inv {i : Instr} {s t : State} (h : Inv s) (he : exec i s = .next t) : Inv t :=
  exec_keeps (fun hs hstep => hstep.inv hs) h he

theorem nextOperation_inv {s u : State} {i : Instr} (h : Inv s) (hn : nextOperation s = some (i, u)) : Inv u := by
  unfold nextOperation at hn
  split at hn
  · simp only [Option.some.injEq, Prod.mk.injEq] at hn
    obtain ⟨-, rfl⟩ := hn
    exact h.congr rfl rfl rfl rfl rfl rfl rfl rfl
  · unfold sequencerNext at hn
    split at hn <;> simp only [Option.some.injEq, Prod.mk.injEq, reduceCtorEq] at hn <;> obtain ⟨-, rfl⟩ := hn
    · exact h
    · exact h.congr rfl rfl rfl rfl rfl rfl rfl rfl
    · exact h
    · exact h

/-- Settles O13: moving the schedule on is no part of the invariant, and the operation keeps it. -/
theorem stepKeepsTheInvariant : Obligations.StepKeepsTheInvariant := by
  intro s t h hstep
  unfold step at hstep
  split at hstep
  · next i u hn => exact exec_inv (nextOperation_inv h hn) hstep
  · cases hstep
    exact h

end Sys2Proof.Machine
end

section
/-! One exchange (43_correlator.md sections 1 and 2): the pseudo-operations as runs of their steps, and how an exchange ends. -/

namespace Sys2Proof.Machine

/-! ## A pseudo-operation is its steps -/

theorem runAll_append_next {is js : List Instr} {s t u : State} (h : runAll is s = .next t) (h' : runAll js t = .next u) :
    runAll (is ++ js) s = .next u := (runAll_append h).trans h'

theorem runAll_singleton {i : Instr} {s t : State} (h : exec i s = .next t) : runAll [i] s = .next t := by
  simp only [runAll, h]

/-- A move of a wait as an operation. -/
def moveInstr : WaitMove → Instr
  | .feed b => .feed b
  | .wake => .swWake
  | .spurious => .swSpurious
  | .timeout => .swTimeout

/-- A move happens where it is enabled and is then its operation (rule R196; log entry 8). -/
theorem waitMove_eq (m : WaitMove) (s : State) :
    waitMove m s = if enabled s (moveInstr m) = true then effect (moveInstr m) s else s := by
  cases m <;> rfl

/-- The moves of a plan that happen, as operations. -/
def takenMoves : List WaitMove → State → List Instr
  | [], _ => []
  | m :: ms, s => (if enabled s (moveInstr m) = true then [moveInstr m] else []) ++ takenMoves ms (waitMove m s)

theorem runAll_takenMoves (ms : List WaitMove) (s : State) : runAll (takenMoves ms s) s = .next (waitMoves ms s) := by
  induction ms generalizing s with
  | nil => rfl
  | cons m ms ih =>
    refine runAll_append_next ?_ (ih (waitMove m s))
    rw [waitMove_eq]
    split
    · next he => exact runAll_singleton (exec_of_enabled he)
    · rfl

theorem mem_takenMoves {ms : List WaitMove} {s : State} {w : Instr} (h : w ∈ takenMoves ms s) : ∃ m, w = moveInstr m := by
  induction ms generalizing s with
  | nil => cases h
  | cons m ms ih =>
    rcases List.mem_append.mp h with hw | hw
    · split at hw
      · exact ⟨m, List.mem_singleton.mp hw⟩
      · cases hw
    · exact ih hw

theorem moveInstr_cases (m : WaitMove) :
    (∃ b, moveInstr m = .feed b) ∨ moveInstr m = .swWake ∨ moveInstr m = .swSpurious ∨ moveInstr m = .swTimeout := by
  cases m <;> simp [moveInstr]

/-- The operations of one exchange: the feeds of the plan after SW.ACQ and SW.POP, and what happened in the wait. -/
def exchangeSteps (c : Byte) (p : List Byte) (cap : Half) (ack : Bool) (plan : ExchangePlan) (waits : List Instr) : List Instr :=
  [Instr.swAcq c p cap ack] ++ plan.afterAcq.map Instr.feed ++ [Instr.swPop] ++ plan.afterPop.map Instr.feed
    ++ [Instr.swTx plan.ok] ++ waits ++ [Instr.swExit]

/-- The steps of an exchange, each enabled where it is taken. -/
theorem runAll_exchange {c : Byte} {p : List Byte} {cap : Half} {ack : Bool} {s : State} (plan : ExchangePlan)
    (hacq : exec (.swAcq c p cap ack) s = .next (acquire ⟨c, p, cap, ack⟩ s)) :
    ∃ waits : List Instr, (∀ w ∈ waits, (∃ b, w = .feed b) ∨ w = .swWake ∨ w = .swSpurious ∨ w = .swTimeout) ∧
      runAll (exchangeSteps c p cap ack plan waits) s = .next (exchange ⟨c, p, cap, ack⟩ plan s) := by
  let written := transmit plan.ok (beforeTransmit ⟨c, p, cap, ack⟩ plan s)
  refine ⟨takenMoves (plan.moves ++ [.wake, .timeout]) written, fun w hw => ?_, ?_⟩
  · obtain ⟨m, rfl⟩ := mem_takenMoves hw
    exact moveInstr_cases m
  · have hlocked := runAll_append_next (runAll_singleton hacq) (runAll_feeds plan.afterAcq _)
    have hpop := runAll_append_next hlocked (runAll_singleton (exec_swPop (by simp)))
    have hpopulated := runAll_append_next hpop (runAll_feeds plan.afterPop _)
    have htx := runAll_append_next hpopulated
      (runAll_singleton (exec_swTx (beforeTransmit_stage ⟨c, p, cap, ack⟩ plan s) plan.ok))
    have hwaited := runAll_append_next htx (runAll_takenMoves (plan.moves ++ [.wake, .timeout]) written)
    rw [exchange_eq]
    exact runAll_append_next hwaited (runAll_singleton (exec_swExit (beforeExit_stage ⟨c, p, cap, ack⟩ plan s)))

section
variable {s : State} {c : Byte} {p : List Byte}

theorem exec_swAcq {cap : Half} (hs : s.co.stage = .idle) (hl : s.lock = false) (hp : p.length ≤ 65535) (hc : cap ≤ s.cfg.ansMax)
    (ack : Bool) : exec (.swAcq c p cap ack) s = .next (acquire ⟨c, p, cap, ack⟩ s) :=
  acquireThen_eq_next.mpr ⟨inRange_of hp hc, lockFree_iff.mpr ⟨hs, hl⟩, rfl⟩

theorem exec_sendAndWait {cap : Half} (hs : s.co.stage = .idle) (hl : s.lock = false) (hp : p.length ≤ 65535)
    (hc : cap ≤ s.cfg.ansMax) (plan : ExchangePlan) :
    exec (.sendAndWait c p cap plan) s = .next (exchange ⟨c, p, cap, false⟩ plan s) :=
  acquireThen_eq_next.mpr ⟨inRange_of hp hc, lockFree_iff.mpr ⟨hs, hl⟩, rfl⟩

theorem exec_sendAndWaitAck (hs : s.co.stage = .idle) (hl : s.lock = false) (hp : p.length ≤ 65535) (hc : 1 ≤ s.cfg.ansMax)
    (plan : ExchangePlan) : exec (.sendAndWaitAck c p plan) s = .next (exchange ⟨c, p, 1, true⟩ plan s) :=
  acquireThen_eq_next.mpr ⟨inRange_of hp hc, lockFree_iff.mpr ⟨hs, hl⟩, rfl⟩

end

/-- Settles O47: the moves of the plan that happen are the waits. -/
theorem pseudoOperationsAreTheirSteps : Obligations.PseudoOperationsAreTheirSteps := by
  refine fun s c p cap plan hs hl hp => ⟨fun hc => ?_, fun hc => ?_⟩
  · obtain ⟨waits, hwaits, hrun⟩ := runAll_exchange plan (exec_swAcq (c := c) hs hl hp hc false)
    exact ⟨waits, _, hwaits, exec_sendAndWait hs hl hp hc plan, hrun⟩
  · obtain ⟨waits, hwaits, hrun⟩ := runAll_exchange plan (exec_swAcq (c := c) hs hl hp hc true)
    exact ⟨waits, _, hwaits, exec_sendAndWaitAck hs hl hp hc plan, hrun⟩

/-! ## The return of an exchange -/

/-- What SW.EXIT makes of the state an exchange reached: one return, the only one, and nothing pending (rules R193, R194). -/
theorem exitExchange_returns {s u : State} (h : Interior s u) :
    ∃ events, (exitExchange u).outputs = s.outputs ++ events ++ [Output.ret u.exitStatus u.pend.answerLength] ∧
      (∀ st n, Output.ret st n ∉ events) ∧ (exitExchange u).pend.sendSequence = s.pend.sendSequence + 1 := by
  obtain ⟨events, hout, hret, -⟩ := h.outputs
  refine ⟨events, by rw [exitExchange_outputs, hout], hret, ?_⟩
  rw [← h.sendSequence]
  rfl

theorem exitStatus_of_fail {s : State} (h : s.co.result = .fail) : s.exitStatus = .fail := by simp [State.exitStatus, h]

/-- A failed write decides the result: the moves after it find the exchange at its exit. -/
theorem beforeExit_result_of_write_failure {plan : ExchangePlan} (h : plan.ok = false) (r : Request) (s : State) :
    (beforeExit r plan s).co.result = .fail := by
  have htx : (transmit plan.ok (beforeTransmit r plan s)).co = { stage := .exit, result := .fail } := by rw [transmit_eq, h]; rfl
  rw [beforeExit, waitMoves_co_of_exit (by rw [htx]), htx]

/-- Every exchange under a plan returns (the first part of R200's statement). -/
theorem exchange_returns (r : Request) (plan : ExchangePlan) (s : State) :
    ∃ (events : List Output) (st : Status) (n : Half),
      (exchange r plan s).outputs = s.outputs ++ events ++ [Output.ret st n] ∧ (∀ st' n', Output.ret st' n' ∉ events) ∧
      (exchange r plan s).pend.sendSequence = s.pend.sendSequence + 1 ∧ (plan.ok = false → st = .fail) := by
  obtain ⟨events, hout, hret, hseq⟩ := exitExchange_returns (beforeExit_interior s r plan)
  rw [exchange_eq]
  exact ⟨events, _, _, hout, hret, hseq, fun hok => exitStatus_of_fail (beforeExit_result_of_write_failure hok r s)⟩

/-! ## An exchange left alone -/

theorem takeNext_nil (s : State) : takeNext s [] = none := rfl

/-- One own step of the sequencer short of the exit: the exchange goes on inside. -/
theorem sequencer_step_inside {s : State} (hq : takeNext s s.schedule = none) (hidle : s.co.stage ≠ .idle)
    (hexit : s.co.stage ≠ .exit) :
    ∃ t, step s = .next t ∧ Interior s t ∧ t.co.stage ≠ .idle ∧ stepsLeft t < stepsLeft s := by
  have hnext : nextOperation s = sequencerNext s := by rw [nextOperation, hq]
  cases hseq : sequencerNext s with
  | none => exact absurd (sequencerNext_eq_none.mp hseq) hidle
  | some x =>
    obtain ⟨i, u⟩ := x
    have hexec := exec_of_enabled (sequencerNext_spec hseq).2
    refine ⟨effect i u, by rw [step, hnext, hseq]; exact hexec, ?_, ?_, (sequencerNext_stepsLeft hseq hexec).2⟩
    all_goals
      unfold sequencerNext at hseq
      split at hseq <;> simp only [Option.some.injEq, Prod.mk.injEq, reduceCtorEq] at hseq <;> obtain ⟨rfl, rfl⟩ := hseq
    · exact populate_interior s
    · exact (show Interior s (drawChoice s) from ⟨rfl, rfl, .inl rfl, [], by simp, by simp, .inl⟩).trans (transmit_interior _ _)
    · split
      · exact wake_interior s
      · exact timeOut_interior s
    · next hs => exact absurd hs hexit
    · simp [effect]
    · rcases transmit_written (Config.writeResult s.choices) (drawChoice s) with h | h <;> simp [effect, h]
    · next hs =>
      split
      · rw [effect, wake_eq]
        split <;> simp [hs]
      · simp [effect]
    · next hs => exact absurd hs hexit

/-- At the exit the sequencer's own step is SW.EXIT. -/
theorem step_of_exit {s : State} (hq : takeNext s s.schedule = none) (hs : s.co.stage = .exit) : step s = .next (exitExchange s) := by
  rw [step_of_takeNext_none hq, hs]
  exact exec_swExit hs

/-- Left alone, an exchange ends within as many steps as it has left, by induction on them. -/
theorem exchange_left_alone_returns {s : State} (hq : s.schedule = []) (hs : s.co.stage ≠ .idle) :
    ∃ (k : Nat) (t u : State), k ≤ stepsLeft s ∧ Host.Core.run Sys2Proof.core k s = .next t ∧ Interior s u ∧ t = exitExchange u := by
  induction hn : stepsLeft s using Nat.strong_induction_on generalizing s with
  | _ n ih =>
    have hnone : takeNext s s.schedule = none := by rw [hq, takeNext_nil]
    by_cases hexit : s.co.stage = .exit
    · have hleft : 1 ≤ n := by rw [← hn, stepsLeft, hexit]
      exact ⟨1, _, s, hleft, run_succ (step_of_exit hnone hexit), .refl s, rfl⟩
    · obtain ⟨t, hstep, hin, hidle, hlt⟩ := sequencer_step_inside hnone hs hexit
      obtain ⟨k, v, u, hk, hrun, hu, rfl⟩ := ih (stepsLeft t) (hn ▸ hlt) (hin.schedule.trans hq) hidle rfl
      exact ⟨k + 1, _, u, by omega, (run_succ hstep).trans hrun, hin.trans hu, rfl⟩

/-! ## Any schedule -/

/-- What is left to do: six for every scheduled byte or operation, and the own steps of the exchange in progress. -/
def workLeft (s : State) : Nat := 6 * scheduledSize s.schedule + stepsLeft s

/-- A step either lessens the work or finds none. -/
theorem step_workLeft (s : State) :
    (∃ t, step s = .next t ∧ workLeft t < workLeft s) ∨ s.co.stage = .idle ∧ step s = .next s := by
  cases hq : takeNext s s.schedule with
  | some x =>
    obtain ⟨i, rest⟩ := x
    obtain ⟨-, he, hlt⟩ := takeNext_spec hq
    have hexec : exec i (reschedule s rest) = .next _ := exec_of_enabled (by rw [reschedule_enabled]; exact he)
    refine .inl ⟨_, (step_of_takeNext hq).trans hexec, ?_⟩
    have hrest := (exec_cfg_schedule hexec).2
    have hleft := stepsLeft_le (effect i (reschedule s rest))
    rw [workLeft, hrest, reschedule_schedule, workLeft]
    omega
  | none =>
    have hnext : nextOperation s = sequencerNext s := by rw [nextOperation, hq]
    cases hseq : sequencerNext s with
    | none => exact .inr ⟨sequencerNext_eq_none.mp hseq, by rw [step, hnext, hseq]⟩
    | some x =>
      obtain ⟨i, u⟩ := x
      have hexec := exec_of_enabled (sequencerNext_spec hseq).2
      obtain ⟨hschedule, hlt⟩ := sequencerNext_stepsLeft hseq hexec
      refine .inl ⟨_, by rw [step, hnext, hseq]; exact hexec, ?_⟩
      rw [workLeft, hschedule, workLeft]
      omega

/-- Whatever is scheduled, the machine comes to rest, by induction on the work left. -/
theorem run_comes_to_rest (s : State) :
    ∃ (k : Nat) (t : State), k ≤ workLeft s ∧ Host.Core.run Sys2Proof.core k s = .next t ∧ t.co.stage = .idle ∧ step t = .next t := by
  induction hn : workLeft s using Nat.strong_induction_on generalizing s with
  | _ n ih =>
    rcases step_workLeft s with ⟨t, hstep, hlt⟩ | ⟨hidle, hstep⟩
    · obtain ⟨k, u, hk, hrun, hrest⟩ := ih (workLeft t) (hn ▸ hlt) t rfl
      exact ⟨k + 1, u, by omega, (run_succ hstep).trans hrun, hrest⟩
    · exact ⟨0, s, Nat.zero_le _, rfl, hidle, hstep⟩

/-! ## A failed write and a timeout -/

theorem waitMove_of_exit {s : State} (h : s.co.stage = .exit) :
    waitMove .wake s = s ∧ waitMove .timeout s = s := by
  simp [waitMove, State.canWake, State.canTimeout, h]

theorem endWait_of_exit {s : State} (h : s.co.stage = .exit) : endWait s = s := by
  rw [endWait, (waitMove_of_exit h).1, (waitMove_of_exit h).2]

/-- Settles O51: both plans reach the exit in the state of a failed exchange. -/
theorem writeFailureAndTimeoutReturnAlike : Obligations.WriteFailureAndTimeoutReturnAlike := by
  intro s c p cap ok hs hl hsig hp hc
  let populated := populate (acquire ⟨c, p, cap, false⟩ s)
  rw [exec_sendAndWait hs hl hp hc, exchange]
  cases ok with
  | false =>
    have hend : endWait (transmit false populated) = transmit false populated := endWait_of_exit rfl
    simp only [feedAll_nil, Bool.false_eq_true, if_false, waitMoves]
    rw [hend]
    simp [populated, exitExchange, State.emit, clearPending, State.exitStatus, transmit_eq, hl]
  | true =>
    have hmove : waitMove .timeout (transmit true populated) = timeOut (transmit true populated) :=
      if_pos ((canTimeout_iff (s := transmit true populated)).mpr ⟨rfl, hsig⟩)
    have hend : endWait (timeOut (transmit true populated)) = timeOut (transmit true populated) := endWait_of_exit rfl
    simp only [feedAll_nil, if_true, waitMoves]
    rw [hmove, hend]
    simp [populated, exitExchange, State.emit, clearPending, State.exitStatus, transmit_eq, timeOut_eq, hl]

end Sys2Proof.Machine
end

section
/-! Fair runs (43_correlator.md section 2, rule R200): in a weakly fair run every exchange comes to its exit, unless a reset abandons
it. -/

namespace Sys2Proof.Machine

/-! ## A wait, seen by the other agents -/

/-- The two sequences agree, the condition a wake tests. -/
def Agree (s : State) : Prop := s.pend.answerSequence = s.pend.sendSequence

/-- What happens to the signal and to the agreement while a command is pending and nobody wakes: agreement and signal last, and the
signal is raised only in agreement. -/
structure Latched (s t : State) : Prop where
  active : t.pend.active = true
  agree : Agree s → Agree t
  sig : s.sig = true → t.sig = true
  raised : t.sig = true → s.sig = true ∨ Agree t

theorem Latched.of_same {s t : State} (ha : s.pend.active = true) (hpend : t.pend = s.pend) (hsig : t.sig = s.sig) : Latched s t :=
  ⟨by rw [hpend, ha], by rw [Agree, Agree, hpend]; exact id, by rw [hsig]; exact id, by rw [hsig]; exact .inl⟩

theorem Latched.trans {s t u : State} (h : Latched s t) (h' : Latched t u) : Latched s u where
  active := h'.active
  agree := h'.agree ∘ h.agree
  sig := h'.sig ∘ h.sig
  raised hu := by
    rcases h'.raised hu with ht | hagree
    · exact (h.raised ht).imp_right h'.agree
    · exact .inr hagree

theorem feedAll_latched (bs : List Byte) {s : State} (ha : s.pend.active = true) : Latched s (feedAll bs s) := by
  induction bs generalizing s with
  | nil => exact .of_same ha rfl rfl
  | cons b bs ih =>
    obtain ⟨hactive, hagree, hsig, hraised⟩ := feed_inExchange b ha
    exact Latched.trans ⟨hactive, hagree, hsig, hraised⟩ (ih hactive)

/-- At C_WAIT an own step other than SW.WAKE and RESET keeps what is latched. -/
theorem exec_latched {i : Instr} {s t : State} (h : exec i s = .next t) (ho : isOwnStep i = true) (hs : s.co.stage = .wait)
    (ha : s.pend.active = true) (hr : i ≠ .reset) (hw : i ≠ .swWake) : Latched s t := by
  obtain ⟨he, rfl⟩ := exec_eq_next.mp h
  have hbusy : s.lockFree = false := by simp [State.lockFree, hs]
  cases i with
  | reset => exact absurd rfl hr
  | swWake => exact absurd rfl hw
  | frameAnswer _ _ | frameReceive _ | frameInvalid _ | frameUnknown _ | frameAck _ => exact feedAll_latched _ ha
  | feed b | rxIdle b | rxCmd b | rxLenLo b | rxLenHi b | rxData b | rxCsum b | rxTerm b => exact feedAll_latched [b] ha
  | swSpurious => exact .of_same ha (spuriousWake_pend s) (recheck_sig s)
  | swTimeout | csum8 _ | encode _ _ | encodeAck _ _ | hostRead _ => exact .of_same ha rfl rfl
  | sendAndWait _ _ _ _ | sendAndWaitAck _ _ _ | swAcq _ _ _ _ => simp [enabled, hbusy] at he
  | swPop | swTx _ | swExit => simp [enabled, hs] at he
  | frameCommand _ _ | cmdVersion | frameNack _ | dispatch | dispAnswer | dispInvalid | dispReceive | write _ _ | raiseSignal
  | onReceive _ _ | log _ => simp [isOwnStep] at ho

theorem StageMove.of_wait {i : Instr} {st : Stage} (h : StageMove i .wait st) : st = .exit := by cases h <;> rfl

/-! ## Weak fairness -/

section
variable {σ : Nat → State} {act : Nat → Instr}

/-- A condition that enables a sequencer step and lasts until the step is taken leads to that step. -/
theorem WeaklyFair.takes (hfair : WeaklyFair σ act) {steps : List Instr} (hsteps : steps ∈ sequencerSteps) {P : State → Prop}
    (henabled : ∀ s, P s → ∃ i ∈ steps, enabled s i = true) {n : Nat} (hn : P (σ n))
    (hlasts : ∀ m, n ≤ m → P (σ m) → act m ∉ steps → P (σ (m + 1))) : ∃ m, n ≤ m ∧ P (σ m) ∧ act m ∈ steps := by
  by_contra hnever
  have hnot : ∀ m, n ≤ m → P (σ m) → act m ∉ steps := fun m hm hP hact => hnever ⟨m, hm, hP, hact⟩
  have hall : ∀ m, n ≤ m → P (σ m) := fun m hm => by
    induction m, hm using Nat.le_induction with
    | base => exact hn
    | succ m hm ih => exact hlasts m hm ih (hnot m hm ih)
  obtain ⟨m, hm, hact⟩ := hfair steps hsteps n fun m hm => henabled _ (hall m hm)
  exact hnot m hm (hall m hm) hact

/-- From the `n`-th step on the run takes neither SW.EXIT nor RESET. -/
def NeverEnds (act : Nat → Instr) (n : Nat) : Prop := ∀ m, n ≤ m → act m ≠ .swExit ∧ act m ≠ .reset

theorem NeverEnds.mono {n m : Nat} (h : NeverEnds act n) (hm : n ≤ m) : NeverEnds act m := fun k hk => h k (hm.trans hk)

section
variable {n : Nat} (hrun : IsRun σ act) (hfair : WeaklyFair σ act) (hnever : NeverEnds act n)
include hrun

theorem run_inv (hinv : Inv (σ n)) {m : Nat} (hm : n ≤ m) : Inv (σ m) := by
  induction m, hm using Nat.le_induction with
  | base => exact hinv
  | succ m hm ih => exact exec_inv ih (hrun m).2

/-- The step a run takes is enabled, and its next state is its effect. -/
theorem run_effect {m : Nat} {i : Instr} (hact : act m = i) : enabled (σ m) i = true ∧ σ (m + 1) = effect i (σ m) := by
  obtain ⟨he, heffect⟩ := exec_eq_next.mp (hact ▸ (hrun m).2)
  exact ⟨he, heffect.symm⟩

include hnever

theorem run_stage {m : Nat} (hm : n ≤ m) :
    (σ (m + 1)).co.stage = (σ m).co.stage ∨ StageMove (act m) (σ m).co.stage (σ (m + 1)).co.stage :=
  exec_stage (hrun m).2 (hnever m hm).2

/-- A stage is left by its own steps only. -/
theorem run_stage_lasts {st : Stage} {steps : List Instr} (hleave : ∀ i st', StageMove i st st' → i ∈ steps) {m : Nat} (hm : n ≤ m)
    (hst : (σ m).co.stage = st) (hact : act m ∉ steps) : (σ (m + 1)).co.stage = st := by
  rcases run_stage hrun hnever hm with hsame | hmove
  · exact hsame.trans hst
  · exact absurd (hleave _ _ (hst ▸ hmove)) hact

include hfair

theorem never_at_exit : (σ n).co.stage ≠ .exit := by
  intro hst
  obtain ⟨m, hm, -, hact⟩ := hfair.takes (steps := [.swExit]) (by decide) (P := fun s => s.co.stage = .exit)
    (fun s hs => ⟨.swExit, by simp, decide_eq_true hs⟩) hst
    fun m hm hs => run_stage_lasts hrun hnever (by rintro _ _ ⟨⟩; simp) hm hs
  exact (hnever m hm).1 (List.mem_singleton.mp hact)

/-- A wait that never ends goes on. -/
theorem wait_lasts (hst : (σ n).co.stage = .wait) {m : Nat} (hm : n ≤ m) : (σ m).co.stage = .wait := by
  induction m, hm using Nat.le_induction with
  | base => exact hst
  | succ m hm ih =>
    rcases run_stage hrun hnever hm with hsame | hmove
    · exact hsame.trans ih
    · have hexit : (σ (m + 1)).co.stage = .exit := (ih ▸ hmove).of_wait
      exact absurd hexit (never_at_exit hrun hfair (hnever.mono (by omega)))

/-- One step of a wait that never ends, SW.WAKE apart. -/
theorem wait_latched (hinv : Inv (σ n)) (hst : (σ n).co.stage = .wait) {m : Nat} (hm : n ≤ m) (hact : act m ≠ .swWake) :
    Latched (σ m) (σ (m + 1)) := by
  have hs := wait_lasts hrun hfair hnever hst hm
  have ha : (σ m).pend.active = true := by rw [(run_inv hrun hinv hm).pendingStage, hs]; rfl
  exact exec_latched (hrun m).2 (hrun m).1 hs ha (hnever m hm).2 hact

/-- A raised signal is consumed by a wake. -/
theorem wait_is_woken (hinv : Inv (σ n)) (hst : (σ n).co.stage = .wait) {P : State → Prop}
    (hsig : ∀ s, P s → s.sig = true) (hP : P (σ n)) (hlasts : ∀ s t, Latched s t → P s → P t) :
    ∃ m, n ≤ m ∧ P (σ m) ∧ σ (m + 1) = wake (σ m) := by
  obtain ⟨m, hm, ⟨hPm, -⟩, hact⟩ := hfair.takes (steps := [.swWake]) (by decide)
    (P := fun s => P s ∧ s.co.stage = .wait)
    (fun s hs => ⟨.swWake, by simp, canWake_iff.mpr ⟨hs.2, hsig s hs.1⟩⟩) ⟨hP, hst⟩
    fun m hm hs hact => ⟨hlasts _ _ (wait_latched hrun hfair hnever hinv hst hm (by simpa using hact)) hs.1,
      wait_lasts hrun hfair hnever hst (by omega)⟩
  exact ⟨m, hm, hPm, (run_effect hrun (List.mem_singleton.mp hact)).2⟩

/-- In a wait that never ends the signal is never raised in agreement: a wake would end the wait. -/
theorem never_signalled_in_agreement (hinv : Inv (σ n)) (hst : (σ n).co.stage = .wait) : ¬((σ n).sig = true ∧ Agree (σ n)) := by
  intro h
  obtain ⟨m, hm, hP, hwake⟩ := wait_is_woken hrun hfair hnever hinv hst (P := fun s => s.sig = true ∧ Agree s) (fun _ h => h.1) h
    fun _ _ hl h => ⟨hl.sig h.1, hl.agree h.2⟩
  obtain ⟨-, hagree⟩ := hP
  rw [Agree] at hagree
  have hexit : (σ (m + 1)).co.stage = .exit := by rw [hwake, wake_eq, if_pos hagree]
  exact never_at_exit hrun hfair (hnever.mono (by omega)) hexit

/-- A wait that never ends has a moment without the signal. -/
theorem wait_unsignalled (hinv : Inv (σ n)) (hst : (σ n).co.stage = .wait) : ∃ m, n ≤ m ∧ (σ m).sig = false := by
  cases hsig : (σ n).sig with
  | false => exact ⟨n, Nat.le_refl n, hsig⟩
  | true =>
    obtain ⟨m, hm, -, hwake⟩ := wait_is_woken hrun hfair hnever hinv hst (P := fun s => s.sig = true) (fun _ h => h) hsig
      fun _ _ hl h => hl.sig h
    exact ⟨m + 1, by omega, by rw [hwake, wake_eq]⟩

/-- No wait goes on for ever: without a signal it times out, and a signal that ends it cannot come. -/
theorem never_at_wait (hinv : Inv (σ n)) : (σ n).co.stage ≠ .wait := by
  intro hst
  obtain ⟨k, hk, hsig⟩ := wait_unsignalled hrun hfair hnever hinv hst
  have hnever' := hnever.mono hk
  have hst' := wait_lasts hrun hfair hnever hst hk
  have hinv' := run_inv hrun hinv hk
  obtain ⟨m, hm, -, hact⟩ := hfair.takes (steps := [.swTimeout]) (by decide)
    (P := fun s => s.co.stage = .wait ∧ s.sig = false)
    (fun s hs => ⟨.swTimeout, by simp, canTimeout_iff.mpr hs⟩) ⟨hst', hsig⟩ fun m hm hs _ => by
      have hnext : (σ (m + 1)).co.stage = .wait := wait_lasts hrun hfair hnever' hst' (by omega)
      refine ⟨hnext, Bool.eq_false_iff.mpr fun hraised => ?_⟩
      have hwake : act m ≠ .swWake := fun hact => by
        have hsig := (canWake_iff.mp (run_effect hrun hact).1).2
        simp [hs.2] at hsig
      have hagree := (wait_latched hrun hfair hnever' hinv' hst' hm hwake).raised hraised |>.resolve_left (by simp [hs.2])
      exact never_signalled_in_agreement hrun hfair (hnever'.mono (by omega)) (run_inv hrun hinv' (by omega)) hnext
        ⟨hraised, hagree⟩
  have hexit : (σ (m + 1)).co.stage = .exit := by rw [(run_effect hrun (List.mem_singleton.mp hact)).2]; rfl
  exact never_at_exit hrun hfair (hnever'.mono (by omega)) hexit

theorem never_at_populated (hinv : Inv (σ n)) : (σ n).co.stage ≠ .populated := by
  intro hst
  obtain ⟨m, hm, -, hact⟩ := hfair.takes (steps := [.swTx true, .swTx false]) (by decide) (P := fun s => s.co.stage = .populated)
    (fun s hs => ⟨.swTx true, by simp, decide_eq_true hs⟩) hst
    fun m hm hs => run_stage_lasts hrun hnever (by rintro _ _ ⟨⟩ <;> simp) hm hs
  obtain ⟨ok, hok⟩ : ∃ ok, act m = .swTx ok := by simpa [or_comm] using hact
  have hwritten := transmit_written ok (σ m)
  rw [show transmit ok (σ m) = σ (m + 1) from (run_effect hrun hok).2.symm] at hwritten
  have hnever' := hnever.mono (m := m + 1) (by omega)
  rcases hwritten with hs | hs
  · exact never_at_wait hrun hfair hnever' (run_inv hrun hinv (by omega)) hs
  · exact never_at_exit hrun hfair hnever' hs

theorem never_at_locked (hinv : Inv (σ n)) : (σ n).co.stage ≠ .locked := by
  intro hst
  obtain ⟨m, hm, -, hact⟩ := hfair.takes (steps := [.swPop]) (by decide) (P := fun s => s.co.stage = .locked)
    (fun s hs => ⟨.swPop, by simp, decide_eq_true hs⟩) hst
    fun m hm hs => run_stage_lasts hrun hnever (by rintro _ _ ⟨⟩; simp) hm hs
  have hs : (σ (m + 1)).co.stage = .populated := by rw [(run_effect hrun (List.mem_singleton.mp hact)).2]; rfl
  exact never_at_populated hrun hfair (hnever.mono (by omega)) (run_inv hrun hinv (by omega)) hs

end

/-- An exchange in progress comes to its exit, or is abandoned by a reset: it can stay at no stage for ever. -/
theorem fair_run_ends (hrun : IsRun σ act) (hfair : WeaklyFair σ act) {n : Nat} (hinv : Inv (σ n)) (hst : (σ n).co.stage ≠ .idle) :
    ∃ m, n ≤ m ∧ (act m = .swExit ∨ act m = .reset) := by
  by_contra hno
  have hnever : NeverEnds act n := fun m hm => ⟨fun h => hno ⟨m, hm, .inl h⟩, fun h => hno ⟨m, hm, .inr h⟩⟩
  cases hs : (σ n).co.stage with
  | idle => exact hst hs
  | locked => exact never_at_locked hrun hfair hnever hinv hs
  | populated => exact never_at_populated hrun hfair hnever hinv hs
  | wait => exact never_at_wait hrun hfair hnever hinv hs
  | exit => exact never_at_exit hrun hfair hnever hs

end

/-- Settles O48: under a plan, left alone, under any schedule, and in any fair run. -/
theorem everyExchangeReturns : Obligations.EveryExchangeReturns := by
  refine ⟨fun s i c p cap plan hs hl hp hi => ?_, fun s hq hs => ?_, fun s => ?_, fun σ act n hrun hfair hinv hst => ?_⟩
  · obtain ⟨r, hexec⟩ : ∃ r, exec i s = .next (exchange r plan s) := by
      rcases hi with ⟨rfl, hc⟩ | ⟨rfl, hc⟩
      · exact ⟨_, exec_sendAndWait hs hl hp hc plan⟩
      · exact ⟨_, exec_sendAndWaitAck hs hl hp hc plan⟩
    obtain ⟨events, st, n, hout, hret, hseq, hfail⟩ := exchange_returns r plan s
    exact ⟨_, events, st, n, hexec, hout, hret, rfl, rfl, rfl, rfl, rfl, rfl, hseq, hfail⟩
  · obtain ⟨k, t, u, hk, hrun, hin, rfl⟩ := exchange_left_alone_returns hq hs
    obtain ⟨events, hout, hret, hseq⟩ := exitExchange_returns hin
    exact ⟨k, _, events, _, _, hk.trans (stepsLeft_le s), hrun, hout, hret, rfl, rfl, rfl, hseq⟩
  · obtain ⟨k, t, hk, hrun, hrest⟩ := run_comes_to_rest s
    have hleft := stepsLeft_le s
    exact ⟨k, t, by unfold workLeft at hk; omega, hrun, hrest⟩
  · exact fair_run_ends hrun hfair hinv hst

end Sys2Proof.Machine
end

section
/-! A whole frame (30_encoding.md, 40_codec.md section 1, 41_receiver.md): what its header, its payload and its footer do when they
are fed in order, and the frame rows. -/

namespace Sys2Proof.Machine

/-! ## The two memories, by name -/

def State.memory (s : State) : Buffer → Memory
  | .ans => s.ans
  | .rxbuf => s.rxbuf

def State.read (s : State) : Buffer → Nat → Byte
  | .ans => s.readAns
  | .rxbuf => s.readRxbuf

def memoryTarget : Buffer → Target
  | .ans => .ans
  | .rxbuf => .rxbuf

/-- The number of bytes of a memory (rules R43, R60). -/
def memorySize (cfg : Config) : Buffer → Half
  | .ans => cfg.ansMax
  | .rxbuf => cfg.rxbufCap

/-- A payload byte reaches the memory its frame goes to, at the payload index, if that is below the capacity. -/
theorem read_storePayload {s : State} {m : Buffer} (hcap : s.rx.target = memoryTarget m → s.rx.capacity ≤ memorySize s.cfg m)
    (b : Byte) (k : Nat) :
    (storePayload b s).read m k =
      if s.rx.counter < s.rx.capacity ∧ s.rx.target = memoryTarget m ∧ k = s.rx.counter.toNat then b else s.read m k := by
  cases m with
  | ans => exact readAns_storePayload hcap b k
  | rxbuf => exact readRxbuf_storePayload hcap b k

/-- A read depends on the memory and the epoch alone. -/
theorem State.read_congr {s t : State} {m : Buffer} (h : t.memory m = s.memory m) (he : t.epoch = s.epoch) (k : Nat) :
    t.read m k = s.read m k := by
  cases m with
  | ans => exact State.readAns_congr h he k
  | rxbuf => exact State.readRxbuf_congr h he k

/-- RX.DATA reads back as the store of its byte. -/
theorem read_rxData {s : State} {m : Buffer} (hcap : s.rx.target = memoryTarget m → s.rx.capacity ≤ memorySize s.cfg m)
    (b : Byte) (k : Nat) :
    (rxData b s).read m k =
      if s.rx.counter < s.rx.capacity ∧ s.rx.target = memoryTarget m ∧ k = s.rx.counter.toNat then b else s.read m k := by
  have hcount : (rxData b s).read m k = (storePayload b (foldByte s b)).read m k :=
    State.read_congr (by cases m <;> rfl) rfl k
  have hfold : (foldByte s b).read m k = s.read m k := State.read_congr (by cases m <;> rfl) rfl k
  rw [hcount, read_storePayload (s := foldByte s b) hcap, hfold]
  rfl

theorem memory_storePayload {s : State} {m : Buffer} (h : s.rx.target ≠ memoryTarget m) (b : Byte) :
    (storePayload b s).memory m = s.memory m := by
  unfold storePayload
  split
  · cases ht : s.rx.target with
    | none => rfl
    | ans =>
      cases m with
      | ans => exact absurd ht h
      | rxbuf => exact State.storeAns_rxbuf s _ b
    | rxbuf =>
      cases m with
      | ans => exact State.storeRxbuf_ans s _ b
      | rxbuf => exact absurd ht h
  · rfl

/-! ## The header -/

theorem feed_sof {s : State} (hs : s.rx.state = .idle) :
    feed s.cfg.sof s = { s with rx := { Rx.reset with state := .awaitCmd, csum := s.cfg.sof } } := by
  rw [feed_of_idle _ hs, rxIdle, if_pos rfl]

/-- Which field comes next while `n` payload bytes of a frame of `length` have been taken. -/
def payloadState (counter length : Half) : RxState := if counter = length then .awaitCsum else .awaitData

/-- The Receive Context after the header of a frame with code `c` and `n` payload bytes. -/
def State.headerRx (s : State) (c : Byte) (n : Nat) : Rx where
  state := payloadState 0 (BitVec.ofNat 16 n)
  command := c
  type := s.classified c
  target := targetOf (s.classified c)
  capacity := s.capacityOf (s.classified c)
  length := BitVec.ofNat 16 n
  counter := 0
  csum := csum8 (frameHeader s.cfg c n)

/-- The state after the header of a frame. -/
def State.afterHeader (s : State) (c : Byte) (n : Nat) : State :=
  { s with rx := s.headerRx c n, pend := s.recognised (s.classified c) }

/-- A start marker and a known command byte mark the frame (rules R26, R142, R143). -/
theorem feedAll_marker_command {s : State} {c : Byte} (hs : s.rx.state = .idle) (hc : s.classified c ≠ .none) :
    feedAll [s.cfg.sof, c] s = { s with
      rx := { state := .awaitLenLo, command := c, type := s.classified c, target := targetOf (s.classified c),
              capacity := s.capacityOf (s.classified c), length := 0, counter := 0, csum := s.cfg.sof + c }
      pend := s.recognised (s.classified c) } := by
  let marked : State := { s with rx := { Rx.reset with state := .awaitCmd, csum := s.cfg.sof } }
  have hmarked : feed s.cfg.sof s = marked := feed_sof hs
  rw [feedAll_cons, hmarked, feedAll_cons, feedAll_nil, feed_of_awaitCmd (s := marked) c rfl,
    rxCmd_of_classified (s := marked) hc]
  rfl

/-- The two length bytes of a length within the maximum (rules R145, R146, R148). -/
theorem feedAll_length {s : State} {lo hi : Byte} (hs : s.rx.state = .awaitLenLo)
    (hn : ¬ s.cfg.maxLen s.rx.command < joinBytes hi lo) :
    feedAll [lo, hi] s = { s with rx := { s.rx with
      length := joinBytes hi lo, csum := s.rx.csum + lo + hi, state := payloadState 0 (joinBytes hi lo) } } := by
  have hlen : setHighByte (setLowByte s.rx.length lo) hi = joinBytes hi lo := by rw [setHighByte, setLowByte_lowByte]
  have hlo : feed lo s = rxLenLo lo s := feed_of_awaitLenLo lo hs
  rw [feedAll_cons, feedAll_cons, feedAll_nil, hlo, feed_of_awaitLenHi (s := rxLenLo lo s) hi rfl,
    rxLenHi_of_within (s := rxLenLo lo s) (by rw [← hlen] at hn; exact hn)]
  simp only [rxLenLo, hlen, payloadState, eq_comm (a := (0 : Half))]

/-- A length within the maximum fits its field. -/
theorem ofNat_of_le_maxLen {cfg : Config} {c : Byte} {n : Nat} (h : n ≤ (cfg.maxLen c).toNat) :
    (BitVec.ofNat 16 n).toNat = n ∧ ¬ cfg.maxLen c < BitVec.ofNat 16 n := by
  have hlt := (cfg.maxLen c).isLt
  have hn : (BitVec.ofNat 16 n).toNat = n := Nat.mod_eq_of_lt (by omega)
  exact ⟨hn, by rw [BitVec.lt_def, hn]; omega⟩

/-- The header of a known command with a length within its maximum leads to the payload. -/
theorem feedAll_frameHeader {s : State} {c : Byte} {n : Nat} (hs : s.rx.state = .idle) (hc : s.classified c ≠ .none)
    (hn : n ≤ (s.cfg.maxLen c).toNat) : feedAll (frameHeader s.cfg c n) s = s.afterHeader c n := by
  have hsplit : frameHeader s.cfg c n =
      [s.cfg.sof, c] ++ [lowByte (BitVec.ofNat 16 n), highByte (BitVec.ofNat 16 n)] := rfl
  rw [hsplit, feedAll_append, feedAll_marker_command hs hc, feedAll_length rfl]
  · simp [State.afterHeader, State.headerRx, frameHeader, BitVec.add_assoc]
  · rw [joinBytes_highByte_lowByte]
    exact (ofNat_of_le_maxLen hn).2

/-! ## The payload -/

section
variable {s : State}

theorem payloadState_of_lt {counter length : Half} (h : counter.toNat < length.toNat) : payloadState counter length = .awaitData :=
  if_neg fun he => by rw [he] at h; omega

theorem feed_payload (hs : s.rx.state = payloadState s.rx.counter s.rx.length) (hlt : s.rx.counter.toNat < s.rx.length.toNat)
    (b : Byte) : feed b s = rxData b s :=
  feed_of_awaitData b (hs.trans (payloadState_of_lt hlt))

theorem rxData_rx (b : Byte) (s : State) :
    (rxData b s).rx = { s.rx with csum := s.rx.csum + b, counter := s.rx.counter + 1,
                                  state := payloadState (s.rx.counter + 1) s.rx.length } := by
  rw [rxData_frame]
  rfl

/-- After one payload byte the receiver is in the payload again, one byte further. -/
theorem rxData_payload {b : Byte} {q : List Byte} (hq : s.rx.counter.toNat + (b :: q).length ≤ s.rx.length.toNat) :
    (rxData b s).rx.state = payloadState (rxData b s).rx.counter (rxData b s).rx.length ∧
      (rxData b s).rx.counter.toNat = s.rx.counter.toNat + 1 ∧
      (rxData b s).rx.counter.toNat + q.length ≤ (rxData b s).rx.length.toNat := by
  have hlt := s.rx.length.isLt
  rw [List.length_cons] at hq
  have hcount : (s.rx.counter + 1).toNat = s.rx.counter.toNat + 1 := by
    rw [BitVec.toNat_add]
    exact Nat.mod_eq_of_lt (by simp; omega)
  rw [rxData_rx]
  exact ⟨rfl, hcount, by simp only [hcount]; omega⟩

/-- The Receive Context after the payload bytes `q` (rules R124, R149, R150). -/
def Rx.afterPayload (rx : Rx) (q : List Byte) : Rx :=
  { rx with
    csum := rx.csum + csum8 q
    counter := rx.counter + BitVec.ofNat 16 q.length
    state := payloadState (rx.counter + BitVec.ofNat 16 q.length) rx.length }

theorem Rx.afterPayload_nil {rx : Rx} (h : rx.state = payloadState rx.counter rx.length) : rx.afterPayload [] = rx := by
  simp [Rx.afterPayload, ← h]

theorem rxData_rx_afterPayload (b : Byte) (q : List Byte) (s : State) :
    (rxData b s).rx.afterPayload q = s.rx.afterPayload (b :: q) := by
  have hcount : s.rx.counter + 1 + BitVec.ofNat 16 q.length = s.rx.counter + BitVec.ofNat 16 (q.length + 1) := by
    rw [Nat.add_comm, BitVec.ofNat_add, BitVec.add_assoc]
    rfl
  rw [rxData_rx]
  simp only [Rx.afterPayload, List.length_cons, csum8_cons, hcount, BitVec.add_assoc]

/-- Payload bytes up to the declared length touch, outside the Receive Context, the two memories only. -/
theorem feedAll_payload {q : List Byte} (hs : s.rx.state = payloadState s.rx.counter s.rx.length)
    (hq : s.rx.counter.toNat + q.length ≤ s.rx.length.toNat) :
    ∃ ans rxbuf, feedAll q s = { s with rx := s.rx.afterPayload q, ans := ans, rxbuf := rxbuf } := by
  induction q generalizing s with
  | nil => exact ⟨s.ans, s.rxbuf, by rw [Rx.afterPayload_nil hs, feedAll_nil]⟩
  | cons b q ih =>
    obtain ⟨hstate, -, hrest⟩ := rxData_payload hq
    obtain ⟨ans, rxbuf, hfeed⟩ := ih hstate hrest
    refine ⟨ans, rxbuf, ?_⟩
    rw [feedAll_cons, feed_payload hs (by simp at hq; omega), hfeed, rxData_rx_afterPayload, rxData_frame]

/-- Payload bytes reach the memory their frame goes to, from the payload index on, below the capacity. -/
theorem read_feedAll_payload {m : Buffer} {q : List Byte} (hcap : s.rx.target = memoryTarget m → s.rx.capacity ≤ memorySize s.cfg m)
    (hs : s.rx.state = payloadState s.rx.counter s.rx.length) (hq : s.rx.counter.toNat + q.length ≤ s.rx.length.toNat) (k : Nat) :
    (feedAll q s).read m k =
      if s.rx.target = memoryTarget m ∧ s.rx.counter.toNat ≤ k ∧ k < min (s.rx.counter.toNat + q.length) s.rx.capacity.toNat
      then q.getD (k - s.rx.counter.toNat) 0 else s.read m k := by
  induction q generalizing s with
  | nil =>
    rw [feedAll_nil, if_neg]
    simp
    omega
  | cons b q ih =>
    obtain ⟨hstate, hcount, hrest⟩ := rxData_payload hq
    have hnext := ih (s := rxData b s) (by rw [rxData_rx, rxData_frame]; exact hcap) hstate hrest
    have hlt : s.rx.counter < s.rx.capacity ↔ s.rx.counter.toNat < s.rx.capacity.toNat := BitVec.lt_def
    rw [read_rxData hcap, hcount, show (rxData b s).rx.target = s.rx.target by rw [rxData_rx],
      show (rxData b s).rx.capacity = s.rx.capacity by rw [rxData_rx]] at hnext
    rw [feedAll_cons, feed_payload hs (by simp at hq; omega), hnext, List.length_cons]
    by_cases ht : s.rx.target = memoryTarget m
    · simp only [ht, true_and, hlt]
      rcases Nat.lt_trichotomy k s.rx.counter.toNat with hk | hk | hk
      · rw [if_neg (by omega), if_neg (by omega), if_neg (by omega)]
      · subst hk
        rw [if_neg (by omega)]
        exact if_congr (by omega) (by simp) rfl
      · obtain ⟨j, rfl⟩ : ∃ j, k = s.rx.counter.toNat + 1 + j := ⟨k - (s.rx.counter.toNat + 1), by omega⟩
        have hj : s.rx.counter.toNat + 1 + j - s.rx.counter.toNat = j + 1 := by omega
        rw [if_neg (c := _ ∧ _ = _) (by omega), hj, List.getD_cons_succ, Nat.add_sub_cancel_left]
        exact if_congr (by omega) rfl rfl
    · simp [ht]

/-- A payload leaves the memory its frame does not go to. -/
theorem memory_feedAll_payload {m : Buffer} {q : List Byte} (ht : s.rx.target ≠ memoryTarget m)
    (hs : s.rx.state = payloadState s.rx.counter s.rx.length) (hq : s.rx.counter.toNat + q.length ≤ s.rx.length.toNat) :
    (feedAll q s).memory m = s.memory m := by
  induction q generalizing s with
  | nil => rfl
  | cons b q ih =>
    obtain ⟨hstate, -, hrest⟩ := rxData_payload hq
    have hbyte : (rxData b s).memory m = s.memory m :=
      calc
        (rxData b s).memory m = (storePayload b (foldByte s b)).memory m := by cases m <;> rfl
        _ = (foldByte s b).memory m := memory_storePayload (s := foldByte s b) ht b
        _ = s.memory m := by cases m <;> rfl
    rw [feedAll_cons, feed_payload hs (by simp at hq; omega), ih (by rw [rxData_rx]; exact ht) hstate hrest, hbyte]

end

/-! ## Header and payload -/

section
variable {s : State} {c : Byte} {n : Nat}

/-- After the header and a part `q` of the payload (rules R124, R149). -/
theorem feedAll_header_payload {q : List Byte} (hs : s.rx.state = .idle) (hc : s.classified c ≠ .none)
    (hn : n ≤ (s.cfg.maxLen c).toNat) (hq : q.length ≤ n) :
    ∃ ans rxbuf, feedAll (frameHeader s.cfg c n ++ q) s =
      { s with rx := (s.headerRx c n).afterPayload q, pend := s.recognised (s.classified c), ans := ans, rxbuf := rxbuf } := by
  rw [feedAll_append, feedAll_frameHeader hs hc hn]
  have hlen : (BitVec.ofNat 16 n).toNat = n := (ofNat_of_le_maxLen hn).1
  exact feedAll_payload (s := s.afterHeader c n) rfl (by simpa [State.afterHeader, State.headerRx, hlen] using hq)

theorem afterPayload_csum (s : State) (c : Byte) (n : Nat) (q : List Byte) :
    ((s.headerRx c n).afterPayload q).csum = csum8 (frameHeader s.cfg c n ++ q) := (csum8_append _ _).symm

theorem afterPayload_counter (s : State) (c : Byte) (n : Nat) (q : List Byte) :
    ((s.headerRx c n).afterPayload q).counter = BitVec.ofNat 16 q.length := BitVec.zero_add _

theorem afterPayload_state (s : State) (c : Byte) (n : Nat) (q : List Byte) :
    ((s.headerRx c n).afterPayload q).state = payloadState (BitVec.ofNat 16 q.length) (BitVec.ofNat 16 n) :=
  congrArg (payloadState · _) (BitVec.zero_add _)

end

/-- Settles O26: the Receive Context after header and payload, register by register. -/
theorem runningChecksumIsCsum : Obligations.RunningChecksumIsCsum := by
  intro s c n q hs hc hn hq
  obtain ⟨ans, rxbuf, hfed⟩ := feedAll_header_payload hs hc hn hq
  have hmax := (s.cfg.maxLen c).isLt
  have hqn : (BitVec.ofNat 16 q.length).toNat = q.length := Nat.mod_eq_of_lt (by omega)
  have hnn : (BitVec.ofNat 16 n).toNat = n := (ofNat_of_le_maxLen hn).1
  refine ⟨_, runAll_feeds _ s, ?_⟩
  rw [hfed]
  refine ⟨afterPayload_csum s c n q, ?_, hnn, ?_⟩
  · rw [afterPayload_counter, hqn]
  · rw [afterPayload_state]
    exact if_congr (by rw [BitVec.toNat_eq, hqn, hnn]) rfl rfl

/-! ## The checksum byte -/

/-- At the checksum byte of a complete payload, a wrong byte ends the frame (rules R151, R152, R243). -/
theorem feedAll_wrong_checksum {s : State} {c k : Byte} {q : List Byte} (hs : s.rx.state = .idle) (hc : s.classified c ≠ .none)
    (hq : q.length ≤ (s.cfg.maxLen c).toNat) (hk : k ≠ csum8 (frameBody s.cfg c q)) :
    ∃ t, feedAll (frameBody s.cfg c q ++ [k]) s = t ∧ t.rx.state = .idle ∧
      t.outputs = s.outputs ++ [.log .checksumMismatch, .write (encodeAckFrame s.cfg c false)] ∧
      t.sig = s.sig ∧ t.pend.answerLength = s.pend.answerLength := by
  obtain ⟨ans, rxbuf, hfed⟩ := feedAll_header_payload hs hc hq (le_refl q.length)
  have hstate := afterPayload_state s c q.length q
  rw [payloadState, if_pos rfl] at hstate
  have hsum : k ≠ ((s.headerRx c q.length).afterPayload q).csum := by rw [afterPayload_csum]; exact hk
  refine ⟨_, rfl, ?_⟩
  rw [feedAll_append, frameBody, hfed, feedAll_cons, feedAll_nil, feed_of_awaitCsum _ (by exact hstate), rxCsum,
    if_neg (by exact hsum), State.raise_spec]
  exact ⟨rfl, by simp [ErrorKind.isLogged, Rx.afterPayload, State.headerRx], rfl, rfl⟩

theorem csum8_ne_of_byte_ne {before after : List Byte} {x y : Byte} (h : x ≠ y) :
    csum8 (before ++ x :: after) ≠ csum8 (before ++ y :: after) := by
  simpa [csum8_append] using h

/-- Settles O27: in both cases the checksum byte is not the checksum of what was fed. -/
theorem aChangedPayloadByteIsAlwaysCaught : Obligations.AChangedPayloadByteIsAlwaysCaught := by
  intro s c p q k hs hc hp h
  have hchanged : q.length = p.length ∧ k ≠ csum8 (frameBody s.cfg c q) := by
    rcases h with ⟨⟨before, after, x, y, rfl, rfl, hne⟩, rfl⟩ | ⟨rfl, hk⟩
    · refine ⟨by simp, ?_⟩
      have hlen : (before ++ y :: after).length = (before ++ x :: after).length := by simp
      rw [frameBody, frameBody, hlen, csum8_append (frameHeader _ _ _) (before ++ x :: after),
        csum8_append (frameHeader _ _ _) (before ++ y :: after)]
      exact fun he => csum8_ne_of_byte_ne hne ((BitVec.add_right_inj _).mp he)
    · exact ⟨rfl, hk⟩
  obtain ⟨hlen, hk⟩ := hchanged
  obtain ⟨t, hfed, hidle, hout, hsig, hanswer⟩ := feedAll_wrong_checksum hs hc (hlen ▸ hp) hk
  refine ⟨t, ?_, hidle, hout, hsig, hanswer⟩
  rw [runAll_feeds, ← hlen]
  exact congrArg _ hfed

end Sys2Proof.Machine
end

section
/-! Whole frames and whole exchanges: the frame rows of each type (40_codec.md section 3, 42_router.md), and the exchange that is
answered while it waits (95_test_vectors.md E1). -/

namespace Sys2Proof.Machine

/-! ## A frame up to its terminator -/

/-- The state at the terminator of a frame with code `c` and payload `p`, the two memories being `ans` and `rxbuf` by then. -/
def State.framed (s : State) (c : Byte) (p : List Byte) (ans rxbuf : Memory) : State :=
  { s with
    rx := { state := .awaitTerm, command := c, type := s.classified c, target := targetOf (s.classified c),
            capacity := s.capacityOf (s.classified c), length := BitVec.ofNat 16 p.length,
            counter := BitVec.ofNat 16 p.length, csum := csum8 (frameBody s.cfg c p) }
    pend := s.recognised (s.classified c), ans := ans, rxbuf := rxbuf }

/-- What the memories hold at the terminator: the memory the frame goes to has its payload up to the capacity, where the capacity is
within the memory, and the other memory is as before. -/
structure PayloadStored (s : State) (c : Byte) (p : List Byte) (u : State) : Prop where
  stored (m : Buffer) (k : Nat) (ht : targetOf (s.classified c) = memoryTarget m)
    (hcap : s.capacityOf (s.classified c) ≤ memorySize s.cfg m) :
    u.read m k = if k < min p.length (s.capacityOf (s.classified c)).toNat then p.getD k 0 else s.read m k
  kept (m : Buffer) (ht : targetOf (s.classified c) ≠ memoryTarget m) : u.memory m = s.memory m

section
variable {s : State} {c : Byte} {p : List Byte}

/-- The bytes of a known frame with a payload within its maximum: its terminator dispatches what the header and the payload left. -/
theorem feedAll_encodeFrame (hs : s.rx.state = .idle) (hc : s.classified c ≠ .none) (hp : p.length ≤ (s.cfg.maxLen c).toNat) :
    ∃ ans rxbuf, PayloadStored s c p (s.framed c p ans rxbuf) ∧
      feedAll (encodeFrame s.cfg c p) s =
        { dispatchFrame (s.framed c p ans rxbuf) with rx := { (s.framed c p ans rxbuf).rx with state := .idle } } := by
  obtain ⟨ans, rxbuf, hfed⟩ := feedAll_header_payload hs hc hp (le_refl p.length)
  have hlen : (BitVec.ofNat 16 p.length).toNat = p.length := (ofNat_of_le_maxLen hp).1
  have hstart : (s.afterHeader c p.length).rx.counter.toNat + p.length ≤ (s.afterHeader c p.length).rx.length.toNat := by
    simp [State.afterHeader, State.headerRx, hlen]
  have hpayload : feedAll p (s.afterHeader c p.length) =
      { s with rx := (s.headerRx c p.length).afterPayload p, pend := s.recognised (s.classified c), ans := ans, rxbuf := rxbuf } := by
    rw [← feedAll_frameHeader hs hc hp, ← feedAll_append, hfed]
  have hstate := afterPayload_state s c p.length p
  rw [payloadState, if_pos rfl] at hstate
  have hcsum : feed (csum8 (frameBody s.cfg c p)) (feedAll (frameBody s.cfg c p) s) = s.framed c p ans rxbuf := by
    rw [frameBody, hfed, feed_of_awaitCsum _ (by exact hstate), rxCsum, if_pos (afterPayload_csum s c p.length p).symm]
    have hcount : (0 : Half) + BitVec.ofNat 16 p.length = BitVec.ofNat 16 p.length := BitVec.zero_add _
    simp only [State.framed, Rx.afterPayload, State.headerRx, hcount, ← csum8_append, frameBody]
  refine ⟨ans, rxbuf, ⟨fun m k ht hcap => ?_, fun m ht => ?_⟩, ?_⟩
  · have hread := read_feedAll_payload (s := s.afterHeader c p.length) (m := m) (q := p) (fun _ => hcap) rfl hstart k
    have hsame : (s.framed c p ans rxbuf).read m k = (feedAll p (s.afterHeader c p.length)).read m k := by
      rw [hpayload]
      cases m <;> rfl
    have hbefore : (s.afterHeader c p.length).read m k = s.read m k := by cases m <;> rfl
    rw [hsame, hread, hbefore]
    exact if_congr (by simp [State.afterHeader, State.headerRx, ht]) (by simp [State.afterHeader, State.headerRx]) rfl
  · have hmemory := memory_feedAll_payload (s := s.afterHeader c p.length) (m := m) (q := p) ht rfl hstart
    rw [hpayload] at hmemory
    cases m <;> exact hmemory
  · have hsplit : encodeFrame s.cfg c p = frameBody s.cfg c p ++ [csum8 (frameBody s.cfg c p), s.cfg.eof] := rfl
    rw [hsplit, feedAll_append, feedAll_cons, hcsum, feedAll_cons, feedAll_nil]
    exact feed_eof (s := s.framed c p ans rxbuf) rfl

/-! ## The frame types -/

/-- An answer frame for the awaited command (rules R127, R142, R143, R149, R171). -/
theorem feedAll_answer (hoffered : s.pend.answerCapacity ≤ s.cfg.ansMax) (hs : s.rx.state = .idle) (ha : s.awaited = some c)
    (hp : p.length ≤ (s.cfg.maxLen c).toNat) :
    ∃ rx ans, feedAll (encodeFrame s.cfg c p) s =
        { s with
          rx := rx
          pend := { s.pend with answerSequence := s.pend.sendSequence, answerLength := BitVec.ofNat 16 p.length }
          sig := true
          outputs := s.outputs ++ [.raiseSignal]
          ans := ans } ∧ rx.state = .idle ∧
      ∀ k, ({ s with ans := ans } : State).readAns k =
        if k < min p.length s.pend.answerCapacity.toNat then p.getD k 0 else s.readAns k := by
  have ht : s.classified c = .answer := classify_awaited ha
  obtain ⟨ans, rxbuf, hmem, hfeed⟩ := feedAll_encodeFrame hs (by rw [ht]; simp) hp
  have hbuf : rxbuf = s.rxbuf := hmem.kept .rxbuf (by rw [ht]; simp [targetOf, memoryTarget])
  have hread := fun k => hmem.stored .ans k (by rw [ht]; rfl) (by rw [ht]; exact hoffered)
  rw [ht] at hread
  subst hbuf
  rw [dispatchFrame_answer (s := s.framed c p ans s.rxbuf) ht,
    answerFrame_of_agree (s := s.framed c p ans s.rxbuf) (by simp [State.framed, State.recognised, ht])] at hfeed
  refine ⟨{ (s.framed c p ans s.rxbuf).rx with state := .idle }, ans, hfeed.trans ?_, rfl, hread⟩
  simp [State.framed, State.recognised, ht]

/-- The bytes of `RXBUF` that a delivery hands over, if the payload stands there. -/
theorem rxbufBytes_eq_take {u : State} {n : Nat} (h : ∀ k, k < min p.length n → u.readRxbuf k = p.getD k 0) :
    u.rxbufBytes (min p.length n) = p.take n := by
  apply List.ext_getElem
  · simp [State.rxbufBytes, Nat.min_comm]
  · intro k hk hk'
    have hlt : k < min p.length n := by simpa [State.rxbufBytes] using hk
    have hlen : k < p.length := by omega
    simp [State.rxbufBytes, h k hlt, hlen]

/-- An unsolicited frame (rules R127, R142, R149, R173). -/
theorem feedAll_receive (hs : s.rx.state = .idle) (ha : s.awaited ≠ some s.cfg.cmdReceive)
    (hp : p.length ≤ (s.cfg.maxLen s.cfg.cmdReceive).toNat) :
    ∃ rx rxbuf, feedAll (encodeFrame s.cfg s.cfg.cmdReceive p) s =
        { s with
          rx := rx
          outputs := s.outputs ++ [.onReceive (p.take s.cfg.rxbufCap.toNat) (BitVec.ofNat 16 p.length)]
          rxbuf := rxbuf } ∧ rx.state = .idle ∧
      ∀ k, ({ s with rxbuf := rxbuf } : State).readRxbuf k =
        if k < min p.length s.cfg.rxbufCap.toNat then p.getD k 0 else s.readRxbuf k := by
  have ht : s.classified s.cfg.cmdReceive = .receive := classify_cmdReceive ha
  obtain ⟨ans, rxbuf, hmem, hfeed⟩ := feedAll_encodeFrame hs (by rw [ht]; simp) hp
  have hlen : (BitVec.ofNat 16 p.length).toNat = p.length := (ofNat_of_le_maxLen hp).1
  have hans : ans = s.ans := hmem.kept .ans (by rw [ht]; simp [targetOf, memoryTarget])
  have hread := fun k => hmem.stored .rxbuf k (by rw [ht]; rfl) (by rw [ht]; exact BitVec.le_refl _)
  rw [ht] at hread
  subst hans
  rw [dispatchFrame_receive (s := s.framed _ p s.ans rxbuf) ht] at hfeed
  have hcount : (s.framed s.cfg.cmdReceive p s.ans rxbuf).deliveredCount = min p.length s.cfg.rxbufCap.toNat := by
    simp only [State.deliveredCount, State.framed, hlen, ht]
    rfl
  have hbytes : (s.framed s.cfg.cmdReceive p s.ans rxbuf).rxbufBytes (min p.length s.cfg.rxbufCap.toNat) =
      p.take s.cfg.rxbufCap.toNat := rxbufBytes_eq_take fun k hk => (hread k).trans (if_pos hk)
  rw [receiveFrame, hcount, hbytes] at hfeed
  refine ⟨{ (s.framed s.cfg.cmdReceive p s.ans rxbuf).rx with state := .idle }, rxbuf, hfeed.trans ?_, rfl, hread⟩
  simp [State.framed, State.recognised, ht, State.deliver, State.emit]

/-- An "invalid command" frame (rules R142, R172). -/
theorem feedAll_invalid (hs : s.rx.state = .idle) (ha : s.awaited ≠ some s.cfg.cmdInvalid)
    (hne : s.cfg.cmdInvalid ≠ s.cfg.cmdReceive) (hp : p.length ≤ (s.cfg.maxLen s.cfg.cmdInvalid).toNat) :
    ∃ rx, feedAll (encodeFrame s.cfg s.cfg.cmdInvalid p) s =
        { s with
          rx := rx
          pend := { s.pend with
            answerSequence := if s.pend.active then s.pend.sendSequence else s.pend.answerSequence
            answerLength := 0 }
          sig := true
          outputs := s.outputs ++ [.raiseSignal] } ∧ rx.state = .idle := by
  have ht : s.classified s.cfg.cmdInvalid = .invalid := classify_cmdInvalid ha hne
  obtain ⟨ans, rxbuf, hmem, hfeed⟩ := feedAll_encodeFrame hs (by rw [ht]; simp) hp
  have hans : ans = s.ans := hmem.kept .ans (by rw [ht]; simp [targetOf, memoryTarget])
  have hbuf : rxbuf = s.rxbuf := hmem.kept .rxbuf (by rw [ht]; simp [targetOf, memoryTarget])
  subst hans hbuf
  rw [dispatchFrame_invalid (s := s.framed _ p s.ans s.rxbuf) ht] at hfeed
  refine ⟨{ (s.framed s.cfg.cmdInvalid p s.ans s.rxbuf).rx with state := .idle }, hfeed.trans ?_, rfl⟩
  simp [State.framed, State.recognised, ht, invalidFrame, State.raiseSignal, State.emit]

end

theorem encodable_of_le_maxLen {cfg : Config} {c : Byte} {p : List Byte} (h : p.length ≤ (cfg.maxLen c).toNat) :
    encodable p = true := by
  have hmax := (cfg.maxLen c).isLt
  exact encodable_of_le (by omega)

/-- Settles O29: the bytes of the frame, by `feedAll_answer`. -/
theorem answerFrameReachesTheWaiter : Obligations.AnswerFrameReachesTheWaiter := by
  intro s c p hinv hs ha hp
  obtain ⟨rx, ans, hfeed, hidle, hread⟩ := feedAll_answer hinv.offered hs ha hp
  refine ⟨_, exec_of_enabled (i := .frameAnswer c p) (encodable_of_le_maxLen hp), ?_⟩
  rw [effect, hfeed]
  exact ⟨hidle, rfl, hread⟩

/-- Settles O30: the bytes of the frame, by `feedAll_receive`. -/
theorem receiveFrameIsDelivered : Obligations.ReceiveFrameIsDelivered := by
  intro s p _ hs ha hp
  obtain ⟨rx, rxbuf, hfeed, hidle, hread⟩ := feedAll_receive hs ha hp
  refine ⟨_, exec_of_enabled (i := .frameReceive p) (encodable_of_le_maxLen hp), ?_⟩
  rw [effect, hfeed]
  exact ⟨hidle, rfl, hread⟩

/-- Settles O31: the bytes of the frame, by `feedAll_invalid`. -/
theorem invalidFrameCompletesWithLengthZero : Obligations.InvalidFrameCompletesWithLengthZero := by
  intro s p hs ha hne hp
  obtain ⟨rx, hfeed, hidle⟩ := feedAll_invalid hs ha hne hp
  refine ⟨_, exec_of_enabled (i := .frameInvalid p) (encodable_of_le_maxLen hp), ?_⟩
  rw [effect, hfeed]
  exact ⟨hidle, rfl⟩

/-- Settles O32: the marker, then the unknown command byte. -/
theorem unknownFrameIsAbandoned : Obligations.UnknownFrameIsAbandoned := by
  intro s c hs hp hr hi
  let marked : State := { s with rx := { Rx.reset with state := .awaitCmd, csum := s.cfg.sof } }
  have hmarked : feed s.cfg.sof s = marked := feed_sof hs
  have hc : marked.classified c = .none := classify_unknown (mt State.awaited_eq_some_iff.mp hp) hr hi
  have hexec : exec (.frameUnknown c) s = .next (feed c (feed s.cfg.sof s)) := exec_of_enabled (i := .frameUnknown c) rfl
  rw [hexec, hmarked, feed_of_awaitCmd (s := marked) c rfl, rxCmd_of_unknown hc]
  rfl

/-- Settles O33: an acknowledge is an answer of the one byte `00`. -/
theorem ackFrameIsAOneByteAnswer : Obligations.AckFrameIsAOneByteAnswer := by
  intro s c hinv hs ha hmax
  obtain ⟨rx, ans, hfeed, hidle, hread⟩ := feedAll_answer (p := [0x00]) hinv.offered hs ha hmax
  refine ⟨_, exec_of_enabled (i := .frameAck c) rfl, ?_⟩
  have heffect : effect (.frameAck c) s = feedAll (encodeFrame s.cfg c [0x00]) s := rfl
  rw [heffect, hfeed]
  refine ⟨fun k => (hread k).trans ?_, hidle, rfl⟩
  by_cases hk : k = 0
  · subst hk
    exact if_congr (by simp [Nat.one_le_iff_ne_zero, Nat.pos_iff_ne_zero]) rfl rfl
  · rw [if_neg (by simp; omega), if_neg (by simp [hk])]

/-! ## An exchange answered while it waits -/

theorem waitMoves_feeds (bs : List Byte) (s : State) : waitMoves (bs.map .feed) s = feedAll bs s := by
  induction bs generalizing s with
  | nil => rfl
  | cons b bs ih => exact ih (feed b s)

/-- The plan of E1: the answer `a` to the command `c` arrives whole after a good write, then the wait wakes. -/
def answeredPlan (cfg : Config) (c : Byte) (a : List Byte) : ExchangePlan :=
  { afterAcq := [], afterPop := [], ok := true, moves := (encodeFrame cfg c a).map .feed ++ [.wake] }

/-- An exchange for `r` at its exit, woken by an answer of `n` bytes that left `ANS` as `ans`. -/
def State.answered (s : State) (r : Request) (n : Nat) (rx : Rx) (ans : Memory) : State :=
  { s with
    rx := rx
    pend := { s.pend with
      active := true, command := r.command, answerSequence := s.pend.sendSequence, answerCapacity := r.capacity
      answerLength := BitVec.ofNat 16 n }
    co := { stage := .exit, result := .ok }
    rq := r, lock := true, sig := false, ans := ans
    outputs := s.outputs ++ [.write (encodeFrame s.cfg r.command r.payload), .raiseSignal] }

/-- An exchange answered while it waits: the wake finds the sequences in agreement, with the answer recorded. -/
theorem exchange_answered {s : State} {r : Request} {a : List Byte} (hs : s.rx.state = .idle)
    (hcap : r.capacity ≤ s.cfg.ansMax) (ha : a.length ≤ (s.cfg.maxLen r.command).toNat) :
    ∃ rx ans, exchange r (answeredPlan s.cfg r.command a) s = exitExchange (s.answered r a.length rx ans) ∧
      ∀ k, (s.answered r a.length rx ans).readAns k = if k < min a.length r.capacity.toNat then a.getD k 0 else s.readAns k := by
  let waiting := transmit true (populate (acquire r s))
  obtain ⟨rx, ans, hfeed, -, hread⟩ := feedAll_answer (s := waiting) (c := r.command) hcap hs rfl ha
  have hfed : feedAll (encodeFrame s.cfg r.command a) waiting = _ := hfeed
  refine ⟨rx, ans, ?_, hread⟩
  rw [exchange, answeredPlan]
  simp only [feedAll_nil, waitMoves_append, waitMoves_feeds, waitMoves]
  rw [hfed, waitMove, if_pos (canWake_iff.mpr ⟨rfl, rfl⟩), wake_eq, if_pos rfl, endWait_of_exit rfl]
  simp [waiting, transmit_eq, State.answered]

/-- Settles O49: the exit of the answered exchange, whose result is `OK`. -/
theorem answeredExchangeReturnsTheAnswer : Obligations.AnsweredExchangeReturnsTheAnswer := by
  intro s c p a cap _ hs hst hl hp hcap ha
  obtain ⟨rx, ans, hexchange, hread⟩ := exchange_answered (r := ⟨c, p, cap, false⟩) hs hcap ha
  refine ⟨_, exec_sendAndWait hst hl hp hcap (answeredPlan s.cfg c a), ?_⟩
  rw [hexchange]
  exact ⟨by simp [State.exitStatus, State.answered], hread, rfl, rfl, rfl, rfl, rfl, rfl⟩

/-- The status of an acknowledge exchange that ended `OK` (rules R193, R195). -/
theorem exitStatus_of_ack {s : State} (hack : s.rq.ack = true) (hok : s.co.result = .ok) :
    s.exitStatus = if s.readAns 0 = Config.ackOk then .ok else .fail := by
  by_cases h : s.readAns 0 = Config.ackOk <;> simp [State.exitStatus, hack, hok, h]

/-- Settles O50: the exit of the answered exchange judges `ANS[0]`, which holds the answer byte. -/
theorem ackExchangeJudgesTheByte : Obligations.AckExchangeJudgesTheByte := by
  intro s c x p _ hs hst hl hp hcap hmax
  obtain ⟨rx, ans, hexchange, hread⟩ := exchange_answered (r := ⟨c, p, 1, true⟩) (a := [x]) hs hcap hmax
  refine ⟨_, exec_sendAndWaitAck hst hl hp hcap (answeredPlan s.cfg c [x]), ?_⟩
  rw [hexchange, exitExchange_outputs, exitStatus_of_ack rfl rfl, hread 0]
  simp [State.answered, Config.ackOk]

end Sys2Proof.Machine
end
